-- ==== Sys2Proof/Word.lean ====
section
/-! DEFINITION. The fixed-width words of the block (00_scope R9): what the spec writes as `u8`, `u16`, `s32`, a
command word or a response word is a bit vector; counts, operands and ticks of time are natural numbers. -/

namespace Sys2Proof

/-- `u8`: a byte of a frame, of the mode register, of a payload. -/
abbrev Byte := BitVec 8

/-- `u16`: an operand field of a command word, CFG_FREQ. -/
abbrev Half := BitVec 16

/-- `s32` or `u32`: HUM, TEMP, a numbered register as RDREG reads it, the info word. -/
abbrev Word32 := BitVec 32

/-- The 64-bit command word `CMD64` (30_encoding R90). -/
abbrev CmdWord := BitVec 64

/-- The 40-bit response word (30_encoding R100). -/
abbrev RspWord := BitVec 40

end Sys2Proof
end

