-- ==== Sys2Proof/Config.lean ====
section
/-! DEFINITION. What is fixed for one block: the constants of 00_scope R7, the OPEN parameters of 00_scope R8 with
their constraints (R8, 20_memory R70), and the free values that stand for what the environment draws
(93_implementation_defined U1 to U4). -/

namespace Sys2Proof.Config

/-! ## The constants the source fixes (R7) -/

/-- `N_BITS`: bit slots per frame. -/
def nBits : Nat := 40
/-- `T_REQ_LOW`: the request pulse, 18 ms. -/
def tReqLow : Nat := 18000
/-- `T_REQ_WAIT`: the wait after release, 20 us. -/
def tReqWait : Nat := 20
/-- `T_BIT_DELAY`: from the observed rise to the sample, 28 us. -/
def tBitDelay : Nat := 28
/-- `OSC_HZ`: the PWM chip's reference clock in the prescale formula. -/
def oscHz : Nat := 25000000
/-- `PWM_STEPS`: PWM ticks per period. -/
def pwmSteps : Nat := 4096
/-- `N_CHANNELS`: PWM channels, indices 0..15. -/
def nChannels : Nat := 16
/-- `TICK_MAX`: the largest on or off tick. -/
def tickMax : Nat := 4095
/-- `DEFAULT_FREQ`: the frequency `initialize` sets. -/
def defaultFreq : Nat := 50
/-- `Prescale(50)`, the literal of R184. -/
def defaultPrescale : Nat := 121
/-- `T_OSC_WAIT`: oscillator stabilisation wait, 5 ms. -/
def tOscWait : Nat := 5000
/-- `MODE_SLEEP`: bit 4 of the mode register. -/
def modeSleep : Byte := 0x10
/-- `MODE_WAKE_AI`: the bits the final mode write sets. -/
def modeWakeAi : Byte := 0xA1
/-- `SERVO_US_MIN`: pulse width at 0 degrees. -/
def servoUsMin : Nat := 600
/-- `SERVO_US_PER_DEG`: 1800/180. -/
def servoUsPerDeg : Nat := 10
/-- `SERVO_PERIOD_US`: 20 ms at 50 Hz. -/
def servoPeriodUs : Nat := 20000
/-- `T_COOLDOWN`: the inter-query cooldown, a host duty (70_reset_and_hazards R270). -/
def tCooldown : Nat := 2000000
/-- `PRESCALE_MIN`, decided 0 by the spec (R8, D16). -/
def prescaleMin : Nat := 0

/-! ## The OPEN parameters (R8) -/

/-- The ten parameters the spec leaves OPEN, before their constraints are checked. -/
structure RawParams where
  /-- `EDGE_TIMEOUT` -/
  edgeTimeout : Nat
  /-- `N_LINES` -/
  nLines : Nat
  /-- `PULLUP_EN` -/
  pullupEn : Bool
  /-- `I2C_ADDR` -/
  i2cAddr : BitVec 7
  /-- `REG_MODE` -/
  regMode : Byte
  /-- `REG_PRESCALE` -/
  regPrescale : Byte
  /-- `REG_CH_BASE` -/
  regChBase : Byte
  /-- `MODE_RESET` -/
  modeReset : Byte
  /-- `MAX_MOTOR` -/
  maxMotor : Nat
  /-- `SPEED_SCALE` -/
  speedScale : Nat
  deriving DecidableEq, Repr, Inhabited

/-- Register address `r` lies in the 64 channel registers of R61. -/
def RawParams.isChannelReg (p : RawParams) (r : Byte) : Bool :=
  decide (p.regChBase.toNat ≤ r.toNat ∧ r.toNat ≤ p.regChBase.toNat + 63)

/-- The constraints of R8 and 20_memory R70. The upper bound of EDGE_TIMEOUT is what the 32 bits of TMR hold
(10_state R24; DEDUCED, log 6). -/
def RawParams.ok (p : RawParams) : Bool :=
  decide (1 ≤ p.edgeTimeout) && decide (p.edgeTimeout < 2 ^ 32) &&
  decide (1 ≤ p.nLines) && decide (p.nLines ≤ 65536) &&
  decide (p.regChBase.toNat + 63 ≤ 255) &&
  p.regMode != p.regPrescale && !p.isChannelReg p.regMode && !p.isChannelReg p.regPrescale &&
  decide (1 ≤ p.maxMotor) && decide (p.maxMotor ≤ 8) &&
  decide (1 ≤ p.speedScale)

/-- The parameters of a block: a choice that breaks a constraint cannot be built, which is the spec's "the model
rejects the configuration" (U14, R70). -/
structure Params extends RawParams where
  /-- the constraints of R8 and R70 hold -/
  valid : toRawParams.ok = true
  deriving DecidableEq, Repr

/-- FREE VALUE: some choice of the OPEN parameters, legal or not (U19). -/
opaque anyParams : RawParams

/-- A legal choice, used only to give a type to the branch of `parameters` where the unknown choice is not legal. -/
def someLegalParams : Params :=
  ⟨⟨1, 1, false, 0, 0, 1, 2, 0, 1, 1⟩, by decide⟩

/-- The parameters after reset: an unknown legal choice (log 5). Nothing in Lean can tell which. -/
def parameters : Params :=
  if h : anyParams.ok = true then ⟨anyParams, h⟩ else someLegalParams

/-! ## Free values: what the environment draws -/

/-- The environment's answer to one I2C transaction (10_state R45): the ticks until it comes (`none`: never,
60_exceptions R247), the error flag, and the byte a read returns. -/
structure I2cAnswer where
  latency : Option Nat
  err : Bool
  data : Byte
  deriving DecidableEq, Repr, Inhabited

/-- FREE VALUE: the level of line `L` at tick `t` where no script gives one (U1, 20_memory R73; log 3). -/
opaque freeLevel : Nat → Nat → Bool

/-- FREE VALUE: the answer to the `n`-th transaction where no script gives one (U2, U3, U4; log 4). -/
opaque freeAnswer : Nat → I2cAnswer

end Sys2Proof.Config
end

