-- ==== Sys2Proof/Syntax.lean ====
section
/-! DEFINITION. The seven commands (30_encoding R92): one constructor per row of spec/opcode_table.json. Operands are
integers as they stand (R91); whether an operand is in its legal set is not a matter of syntax (R93). -/

namespace Sys2Proof

/-- A decoded command. -/
inductive Instr where
  /-- `QUERY line, family`: 40_sensor_query R130 -/
  | query (lineId family : Nat)
  /-- `RDREG reg`: 41_register_read R170 -/
  | rdreg (reg : Nat)
  /-- `INIT`: 42_pwm_driver R183 -/
  | init
  /-- `SETFREQ hz`: 42_pwm_driver R186 -/
  | setfreq (freqHz : Nat)
  /-- `SETDUTY ch, on, off`: 42_pwm_driver R190 -/
  | setduty (channel onTick offTick : Nat)
  /-- `SERVO ch, deg`: 43_actuator_mapping R210 -/
  | servo (channel degree : Nat)
  /-- `MOTOR idx, speed`: 43_actuator_mapping R215; `speed` is the two's complement reading of field `b` -/
  | motor (index : Nat) (speed : Int)
  deriving DecidableEq, Repr

/-- The mnemonic of the opcode table. -/
def Instr.mnemonic : Instr → String
  | .query .. => "QUERY"
  | .rdreg .. => "RDREG"
  | .init => "INIT"
  | .setfreq .. => "SETFREQ"
  | .setduty .. => "SETDUTY"
  | .servo .. => "SERVO"
  | .motor .. => "MOTOR"

/-- Why a command word spells no command (30_encoding R95). -/
inductive DecodeError where
  /-- `op` is none of the seven opcodes -/
  | unassignedOpcode
  /-- the reserved field `z` is not 0 -/
  | reservedFieldNotZero
  /-- an operand field the command does not use is not 0 -/
  | unusedOperandNotZero
  deriving DecidableEq, Repr

end Sys2Proof
end

