-- ==== Sys2Proof/WellFormed.lean ====
section
/-! DEFINITION. Which command terms have a command word: every operand fits its field of `CMD64` (30_encoding R91).
An operand that fits but is outside its legal set is well formed, and its command answers RangeError (R93). -/

namespace Sys2Proof

/-- `n` fits an unsigned 16-bit operand field. -/
def fitsU16 (n : Nat) : Bool := decide (n < 65536)

/-- `v` fits a two's complement 16-bit operand field. -/
def fitsS16 (v : Int) : Bool := decide (-32768 ≤ v) && decide (v ≤ 32767)

/-- Every operand of the command fits its field. -/
def Instr.wf : Instr → Bool
  | .query l f => fitsU16 l && fitsU16 f
  | .rdreg r => fitsU16 r
  | .init => true
  | .setfreq f => fitsU16 f
  | .setduty c n f => fitsU16 c && fitsU16 n && fitsU16 f
  | .servo c d => fitsU16 c && fitsU16 d
  | .motor i v => fitsU16 i && fitsS16 v

end Sys2Proof
end

