-- ==== Sys2Proof/Decode.lean ====
section
/-! DEFINITION. The decoder of command words (30_encoding R90 to R95), total and rejecting by name; after it the
encoder, the opcode table's mask and match columns (R92), and the assembler syntax (R106). -/

namespace Sys2Proof

/-! ## The fields of CMD64 (R91) -/

/-- `op`, bits [63:56]. -/
def CmdWord.op (w : CmdWord) : Byte := w.extractLsb' 56 8
/-- `z`, bits [55:48]. -/
def CmdWord.z (w : CmdWord) : Byte := w.extractLsb' 48 8
/-- `a`, bits [47:32]. -/
def CmdWord.a (w : CmdWord) : Half := w.extractLsb' 32 16
/-- `b`, bits [31:16]. -/
def CmdWord.b (w : CmdWord) : Half := w.extractLsb' 16 16
/-- `c`, bits [15:0]. -/
def CmdWord.c (w : CmdWord) : Half := w.extractLsb' 0 16

/-- An unused operand must be 0 (R91), or the word is illegal (R95). -/
def unusedZero (unused : List Half) (i : Instr) : Except DecodeError Instr :=
  if unused.all (· == 0) then .ok i else .error .unusedOperandNotZero

/-- The decoder: the row of R92 that the word matches, or the reason why none does (R95). -/
def decode (w : CmdWord) : Except DecodeError Instr :=
  let op := CmdWord.op w
  let a := CmdWord.a w
  let b := CmdWord.b w
  let c := CmdWord.c w
  if CmdWord.z w ≠ 0 then .error .reservedFieldNotZero
  else if op = 0x01 then unusedZero [c] (.query a.toNat b.toNat)
  else if op = 0x02 then unusedZero [b, c] (.rdreg a.toNat)
  else if op = 0x10 then unusedZero [a, b, c] .init
  else if op = 0x11 then unusedZero [b, c] (.setfreq a.toNat)
  else if op = 0x12 then unusedZero [] (.setduty a.toNat b.toNat c.toNat)
  else if op = 0x13 then unusedZero [c] (.servo a.toNat b.toNat)
  else if op = 0x14 then unusedZero [c] (.motor a.toNat b.toInt)
  else .error .unassignedOpcode

/-- The decoder on a word of the opcode table: the one instruction word is 64 bits wide (R90). -/
def decodeTableWord (nbits w : Nat) : Option Instr :=
  match decode (BitVec.ofNat 64 (w % 2 ^ nbits)) with
  | .ok i => some i
  | .error _ => none

/-! ## The encoder -/

/-- `op ++ z ++ a ++ b ++ c` with `z = 0` (R91). -/
def packFields (op : Byte) (a b c : Half) : CmdWord := op ++ (0 : Byte) ++ a ++ b ++ c

/-- The command word of a command (R92). -/
def encode : Instr → CmdWord
  | .query l f => packFields 0x01 (BitVec.ofNat 16 l) (BitVec.ofNat 16 f) 0
  | .rdreg r => packFields 0x02 (BitVec.ofNat 16 r) 0 0
  | .init => packFields 0x10 0 0 0
  | .setfreq f => packFields 0x11 (BitVec.ofNat 16 f) 0 0
  | .setduty ch n f => packFields 0x12 (BitVec.ofNat 16 ch) (BitVec.ofNat 16 n) (BitVec.ofNat 16 f)
  | .servo ch d => packFields 0x13 (BitVec.ofNat 16 ch) (BitVec.ofNat 16 d) 0
  | .motor i v => packFields 0x14 (BitVec.ofNat 16 i) (BitVec.ofInt 16 v) 0

/-! ## The opcode table's other presentation: mask and match (R92) -/

/-- A row of R92's second table. -/
structure OpcodeRow where
  mnemonic : String
  mask : CmdWord
  matchBits : CmdWord
  deriving DecidableEq, Repr

/-- R92: "a word `w` selects a row iff `w & mask = match`". -/
def OpcodeRow.selects (r : OpcodeRow) (w : CmdWord) : Bool := w &&& r.mask == r.matchBits

/-- The seven rows. -/
def opcodeRows : List OpcodeRow :=
  [⟨"QUERY", 0xFFFF00000000FFFF#64, 0x0100000000000000#64⟩,
   ⟨"RDREG", 0xFFFF0000FFFFFFFF#64, 0x0200000000000000#64⟩,
   ⟨"INIT", 0xFFFFFFFFFFFFFFFF#64, 0x1000000000000000#64⟩,
   ⟨"SETFREQ", 0xFFFF0000FFFFFFFF#64, 0x1100000000000000#64⟩,
   ⟨"SETDUTY", 0xFFFF000000000000#64, 0x1200000000000000#64⟩,
   ⟨"SERVO", 0xFFFF00000000FFFF#64, 0x1300000000000000#64⟩,
   ⟨"MOTOR", 0xFFFF00000000FFFF#64, 0x1400000000000000#64⟩]

/-- The rows of R92 that a word selects. -/
def selectedMnemonics (w : CmdWord) : List String :=
  (opcodeRows.filter (·.selects w)).map (·.mnemonic)

/-! ## Assembler syntax (R106) -/

/-- An operand as a program line writes it: an integer or one of R106's names. -/
inductive AsmOperand where
  | num (v : Int)
  | name (s : String)
  deriving DecidableEq, Repr

/-- The families' names of R106 (numbered by R94). -/
def familyNames : List (String × Int) := [("DHT11", 0), ("DHT22", 1)]

/-- The register names of R106. -/
def registerNames : List (String × Int) :=
  [("STATUS", 0), ("HUM", 1), ("TEMP", 2), ("RBLO", 3), ("RBHI", 4), ("CFG_ADDR", 5), ("CFG_FREQ", 6),
   ("CFG_PRESCALE", 7)]

/-- The integer an operand stands for, where `names` may be used. -/
def AsmOperand.value? (names : List (String × Int)) : AsmOperand → Option Int
  | .num v => some v
  | .name s => names.lookup s

/-- An operand that stands for an unsigned integer. -/
def AsmOperand.nat? (names : List (String × Int)) (o : AsmOperand) : Option Nat :=
  match o.value? names with
  | some v => if 0 ≤ v then some v.toNat else none
  | none => none

/-- One line of a program (R106), already cut into its mnemonic and operands: the command it writes, none where the
line is not of R106's table (log 18). -/
def assemble (mnemonic : String) (operands : List AsmOperand) : Option Instr :=
  let i : Option Instr :=
    match mnemonic, operands with
    | "QUERY", [l, f] => do some (.query (← l.nat? []) (← f.nat? familyNames))
    | "RDREG", [r] => do some (.rdreg (← r.nat? registerNames))
    | "INIT", [] => some .init
    | "SETFREQ", [h] => do some (.setfreq (← h.nat? []))
    | "SETDUTY", [c, n, f] => do some (.setduty (← c.nat? []) (← n.nat? []) (← f.nat? []))
    | "SERVO", [c, d] => do some (.servo (← c.nat? []) (← d.nat? []))
    | "MOTOR", [x, v] => do some (.motor (← x.nat? []) (← v.value? []))
    | _, _ => none
  i.filter Instr.wf

end Sys2Proof
end

