-- ==== Sys2Proof/Machine/State.lean ====
section
/-! DEFINITION. The state of the block as plain data (10_state R20 to R34), its output ports of the tick just run
(R42 to R44), the OPEN parameters of the block at hand (00_scope R8), and the environment's part of a run, which the
spec calls inputs (R45) and the model holds as data (log 2). -/

namespace Sys2Proof.Machine

open Sys2Proof.Config

/-- `ST`, the sequencer's major state (10_state R21). BYTE_ASSEMBLY, CHECKSUM_VERIFY, DECODE, DONE and ERROR are
entered and left within one tick (R21, 40_sensor_query R139), so a state between two ticks never shows them. -/
inductive St where
  | idle | requestSent | awaitAck | bitSampling | byteAssembly | checksumVerify | decode | done | error | pwmSeq
  deriving DecidableEq, Repr

/-- `PHASE`, the sub-step inside ST (10_state R22). -/
inductive Phase where
  | none | reqLow | reqWait | ackWaitLow | ackWaitHigh | bitWaitFall | bitWaitRise | bitDelay | i2cWait | oscWait
  deriving DecidableEq, Repr

/-- The status of a response (30_encoding R101). -/
inductive Status where
  | ok | timeout | checksumMismatch | transportError | rangeError | illegalCommand
  deriving DecidableEq, Repr

/-- `RB0`..`RB4`, the source's ResultBytes (10_state R28). -/
structure ResultBytes where
  rb0 : Byte
  rb1 : Byte
  rb2 : Byte
  rb3 : Byte
  rb4 : Byte
  deriving DecidableEq, Repr

/-- One request on the I2C transaction port (10_state R44): `rw` is 1 for a read. -/
structure I2cRequest where
  rw : Bool
  addr : BitVec 7
  len : BitVec 3
  data : BitVec 40
  deriving DecidableEq, Repr

/-- The host offers `word` on the command port from tick `tick` on, until it is accepted (R42). -/
structure Offer where
  tick : Nat
  word : CmdWord
  deriving DecidableEq, Repr

/-- From tick `tick` on line `line` has level `level`, until a later entry for the line; `none`: the script stops
saying what the level is. -/
structure LineEdge where
  line : Nat
  tick : Nat
  level : Option Bool
  deriving DecidableEq, Repr

/-- The transaction the transport is working on (R44): whether it is a read, the ticks until its answer comes
(`none`: it never comes, 60_exceptions R247), and the answer. -/
structure Transfer where
  read : Bool
  left : Option Nat
  err : Bool
  data : Byte
  deriving DecidableEq, Repr

/-- The environment's part of a run (R45), the MODEL's own fields, none of them state of the block (log 2). -/
structure Env where
  /-- `now` (00_scope R10): the tick whose end the state describes -/
  now : Nat
  /-- the command words the host offers, the next one first -/
  offers : List Offer
  /-- the ticks at which `rst = 1` (10_state R41) -/
  rstTicks : List Nat
  /-- scripted levels of the lines, in time order; beyond them a level is free (log 3) -/
  lines : List LineEdge
  /-- scripted answers of the transport, the next one first; beyond them an answer is free (log 4) -/
  answers : List I2cAnswer
  /-- how many transactions were ever issued: free answers are drawn by this number -/
  serial : Nat
  /-- the outstanding transaction -/
  xfer : Option Transfer
  deriving DecidableEq, Repr

/-- The whole state: every component of 10_state R20, the pulse ports of the tick just run, the parameters, the
environment. CFG_ADDR is hardwired to a parameter (R32) and read by `State.cfgAddr`. -/
structure State where
  /-- `ST` (R21) -/
  st : St
  /-- `PHASE` (R22) -/
  phase : Phase
  /-- `BITIDX` (R23) -/
  bitIdx : BitVec 6
  /-- `TMR` (R24) -/
  tmr : BitVec 32
  /-- `SEQ` (R25) -/
  seq : BitVec 4
  /-- `TXN` (R25) -/
  txn : BitVec 8
  /-- `CMD` (R26) -/
  cmd : CmdWord
  /-- `FRAME[0..39]` (R27) -/
  frame : Vector Bool 40
  /-- `RB0`..`RB4` (R28) -/
  rb : ResultBytes
  /-- `HUM` (R29) -/
  hum : Word32
  /-- `TEMP` (R29) -/
  temp : Word32
  /-- `VALID` (R30) -/
  valid : Bool
  /-- `INITED` (R31) -/
  inited : Bool
  /-- `CFG_FREQ` (R32) -/
  cfgFreq : Half
  /-- `CFG_PRESCALE` (R32) -/
  cfgPrescale : Byte
  /-- `OLDMODE` (R33) -/
  oldMode : Byte
  /-- the lines `L` with `SD_OE[L] = 1`, rising (R34, log 16) -/
  sdOe : List Nat
  /-- the lines `L` with `SD_PU[L] = 1`, rising (R34, log 16) -/
  sdPu : List Nat
  /-- `rsp` while `rsp_valid = 1` (R42); `none` while `rsp_valid = 0` (U9) -/
  rsp : Option RspWord
  /-- the requests pulsed in this tick, in order (R44); several when answers come with no latency (log 15) -/
  i2cReq : List I2cRequest
  /-- the OPEN parameters of this block (00_scope R8); no step changes them -/
  par : Params
  /-- the environment's part (R45) -/
  env : Env
  deriving DecidableEq, Repr

/-- Why a step stops. -/
inductive Fault where
  /-- Raised by `step` and by every meaning in a control state outside the table of 10_state R22: ST and PHASE do not
  go together, or they do not go with the command in CMD. No run from reset reaches such a state. Safe: the model
  stops where the spec says nothing. -/
  | sequencerLost
  deriving DecidableEq, Repr

/-- Why an instruction has no meaning. -/
inductive Refusal where
  /-- Raised by an arm of `exec` that has no meaning yet (none at present). Safe. -/
  | notModelled (mnemonic : String)
  deriving DecidableEq, Repr

/-- The outcome of a step or of a meaning. -/
abbrev Out := Host.Outcome State Fault Refusal

/-- The environment with nothing scripted, at tick 0. -/
def Env.empty : Env :=
  { now := 0, offers := [], rstTicks := [], lines := [], answers := [], serial := 0, xfer := none }

/-- The state right after reset (70_reset_and_hazards R260): every register of R20 at its reset value, the ports as
R260 says, the parameters an unknown legal choice (log 5), and nothing scripted for the environment (log 2). -/
def State.reset : State :=
  { st := .idle
    phase := .none
    bitIdx := 0
    tmr := 0
    seq := 0
    txn := 0
    cmd := 0
    frame := Vector.replicate 40 false
    rb := ⟨0, 0, 0, 0, 0⟩
    hum := 0
    temp := 0
    valid := false
    inited := false
    cfgFreq := 0
    cfgPrescale := 0
    oldMode := 0
    sdOe := []
    sdPu := []
    rsp := none
    i2cReq := []
    par := Config.parameters
    env := Env.empty }

end Sys2Proof.Machine
end

