-- ==== Sys2Proof/Machine/Ops.lean ====
section
/-! DEFINITION. The shared operations: the pseudocode primitives of 00_scope R10 (`Drive0`, `Release`, `Sample`,
`Delay`, `WaitLevel`, `MemRead`, `MemWrite`, `respond`, `raise`), the ports (10_state R42 to R44), the tick and the
reset pin. -/

namespace Sys2Proof.Machine

open Sys2Proof.Config

/-! ## Ports that are functions of the registers -/

/-- `cmd_ready = (ST = IDLE)` (R42). -/
def State.cmdReady (s : State) : Bool := s.st == .idle

/-- `busy = (ST ≠ IDLE)` (R42). -/
def State.busy (s : State) : Bool := s.st != .idle

/-- `rsp_valid` (R42). -/
def State.rspValid (s : State) : Bool := s.rsp.isSome

/-- `sd_oe[L] = SD_OE[L]` (R43). -/
def State.sdOeAt (s : State) (L : Nat) : Bool := s.sdOe.contains L

/-- `sd_pu[L] = SD_PU[L]` (R43). -/
def State.sdPuAt (s : State) (L : Nat) : Bool := s.sdPu.contains L

/-- `CFG_ADDR`, hardwired to `I2C_ADDR` (R32). -/
def State.cfgAddr (s : State) : BitVec 7 := s.par.i2cAddr

/-! ## Time -/

/-- The next tick begins: `now` moves on and the one-tick pulses of the tick before are over (R42, R44). -/
def State.nextTick (s : State) : State :=
  { s with rsp := none, i2cReq := [], env := { s.env with now := s.env.now + 1 } }

/-- `rst = 1` at the current tick (R41). -/
def State.rstNow (s : State) : Bool := s.env.rstTicks.contains s.env.now

/-- What a tick with `rst = 1` does (R260, R263): the whole state of R20 takes its reset value, no response is sent,
an outstanding transaction is forgotten. The parameters and the rest of the environment are not the block's. -/
def State.takeReset (s : State) : State :=
  { State.reset with par := s.par, env := { s.env with xfer := none } }

/-- TMR is restarted at the start of each delay and each wait (R24). -/
def State.restartTimer (s : State) : State := { s with tmr := 0 }

/-- One more tick has passed in the running delay or wait (R24). -/
def State.countTick (s : State) : State := { s with tmr := s.tmr + 1 }

/-- One tick of a `Delay(n)` (R10): when its `n` ticks are over, `next` acts at this same tick (log 17). -/
def State.delayTick (n : Nat) (next : State → State) (s : State) : State :=
  let s := s.countTick
  if n ≤ s.tmr.toNat then next s else s

/-! ## Responses and failures -/

/-- The code of a status (30_encoding R101). -/
def Status.code : Status → Byte
  | .ok => 0
  | .timeout => 1
  | .checksumMismatch => 2
  | .transportError => 3
  | .rangeError => 4
  | .illegalCommand => 5

/-- The response word `status ++ info` (R100). -/
def responseWord (status : Status) (info : Word32) : RspWord := status.code ++ info

/-- A command ends: `rsp_valid` pulses with the response word, and ST is IDLE again, so that the block is ready at
the next tick (R21, R42). -/
def State.endCommand (status : Status) (info : Word32) (s : State) : State :=
  { s with st := .idle, phase := .none, rsp := some (responseWord status info) }

/-- `respond OK(info)` (R10). -/
def State.respondOk (info : Word32) (s : State) : State := s.endCommand .ok info

/-- `raise <Status>(info)`, the one operation by which a command fails (60_exceptions R240): the sequence stops, the
response carries the status, nothing is saved and control goes nowhere. There is no return from it (R242). -/
def State.raise (status : Status) (info : Word32) (s : State) : State := s.endCommand status info

/-- `raise RangeError(k)`: operand number `k` is the first one outside its legal set (R102, R238). -/
def State.raiseRange (k : Nat) (s : State) : State := s.raise .rangeError (BitVec.ofNat 32 k)

/-! ## The single-wire lines (20_memory R71 to R74) -/

/-- Put `L` into a rising list of lines. -/
def insertLine (L : Nat) : List Nat → List Nat
  | [] => [L]
  | x :: xs => if L < x then L :: x :: xs else if L = x then x :: xs else x :: insertLine L xs

/-- Take `L` out of a list of lines. -/
def removeLine (L : Nat) (xs : List Nat) : List Nat := xs.filter (· ≠ L)

/-- `Drive0(L)`: line `L` is pulled low (R72). -/
def State.drive0 (L : Nat) (s : State) : State := { s with sdOe := insertLine L s.sdOe }

/-- `Release(L)` (R72). -/
def State.release (L : Nat) (s : State) : State := { s with sdOe := removeLine L s.sdOe }

/-- `SD_PU[L] <- 1` if `PULLUP_EN` (R34). -/
def State.enablePullup (L : Nat) (s : State) : State :=
  if s.par.pullupEn then { s with sdPu := insertLine L s.sdPu } else s

/-- What the script says of line `L` at tick `t`: its last entry for the line at or before `t`. -/
def Env.scriptedLevel (e : Env) (L t : Nat) : Option Bool :=
  ((e.lines.filter fun x => x.line == L && x.tick ≤ t).getLast?).bind (·.level)

/-- The level a released line has at tick `t`: the script's, or a free value (R73, U1, log 3). -/
def Env.level (e : Env) (L t : Nat) : Bool := (e.scriptedLevel L t).getD (freeLevel L t)

/-- `Sample(L)` at the current tick, `sd_in[L](now)`: 0 while the block drives the line (R73, R74). -/
def State.sample (L : Nat) (s : State) : Bool := if s.sdOeAt L then false else s.env.level L s.env.now

/-- One look of `WaitLevel(L, v, site)` at the current tick: success makes `next` act at this same tick (R133). -/
def State.look (L : Nat) (v : Bool) (next : State → State) (s : State) : State :=
  if s.sample L = v then next s else s

/-- `raise Timeout(site)`, through the transient ERROR (R133, R131). -/
def State.raiseTimeout (site : Nat) (s : State) : State :=
  { s with st := .error }.raise .timeout (BitVec.ofNat 32 site)

/-- One later tick of a `WaitLevel`: after `EDGE_TIMEOUT` unsuccessful looks the wait fails, else there is one more
look (R133, log 17). -/
def State.waitTick (L : Nat) (v : Bool) (site : Nat) (next : State → State) (s : State) : State :=
  let s := s.countTick
  if s.par.edgeTimeout ≤ s.tmr.toNat then s.raiseTimeout site else s.look L v next

/-! ## I2C transactions (20_memory R64, R65; 10_state R44) -/

/-- Payload byte `k` is bits `[8k+7:8k]`; bytes at or above the length are 0 (R44). -/
def packPayload (bytes : List Byte) : BitVec 40 :=
  bytes.foldr (fun b acc => acc <<< 8 ||| b.setWidth 40) 0

/-- The request of `MemRead(addr, 1)` (R64). -/
def readRequest (i2cAddr : BitVec 7) (addr : Byte) : I2cRequest :=
  { rw := true, addr := i2cAddr, len := 1, data := packPayload [addr] }

/-- The request of `MemWrite(addr, n, vs)` (R65). -/
def writeRequest (i2cAddr : BitVec 7) (addr : Byte) (vs : List Byte) : I2cRequest :=
  { rw := false, addr := i2cAddr, len := BitVec.ofNat 3 (vs.length + 1), data := packPayload (addr :: vs) }

/-- How a primitive that may take time leaves the sequence: it goes on at this same tick, or it does not (the block
waits, or the command has ended). -/
inductive Flow where
  | go (s : State)
  | stop (s : State)
  deriving DecidableEq, Repr

/-- The response of a transaction arrives (R64, R65): an error ends the command with `TransportError(TXN − 1)`
(60_exceptions R235); a read leaves its byte in OLDMODE, where the only read there is puts it (42_pwm_driver R188). -/
def State.arrive (read err : Bool) (data : Byte) (s : State) : Flow :=
  let s := { s with phase := .none, env := { s.env with xfer := none } }
  if err then .stop (s.raise .transportError ((s.txn - 1).setWidth 32))
  else .go (if read then { s with oldMode := data } else s)

/-- The answer the environment will give to the next transaction: the script's, or a free one (R45, log 4). -/
def Env.nextAnswer (e : Env) : I2cAnswer := e.answers.headD (freeAnswer e.serial)

/-- The environment after it has been asked once more. -/
def Env.countRequest (e : Env) : Env := { e with answers := e.answers.tail, serial := e.serial + 1 }

/-- One request is issued and TXN counts it; with latency 0 the response is in the same tick, otherwise the block
waits in I2C_WAIT (R44). -/
def State.transact (req : I2cRequest) (s : State) : Flow :=
  let ans := s.env.nextAnswer
  let s := { s with txn := s.txn + 1, i2cReq := s.i2cReq ++ [req], env := s.env.countRequest }
  if ans.latency = some 0 then s.arrive req.rw ans.err ans.data
  else .stop { s with phase := .i2cWait, env := { s.env with xfer := some ⟨req.rw, ans.latency, ans.err, ans.data⟩ } }

/-- `OLDMODE <- MemRead(addr, 1)` (R64). -/
def State.memRead (addr : Byte) (s : State) : Flow := s.transact (readRequest s.cfgAddr addr)

/-- `MemWrite(addr, n, vs)` (R65). -/
def State.memWrite (addr : Byte) (vs : List Byte) (s : State) : Flow := s.transact (writeRequest s.cfgAddr addr vs)

/-- One tick in I2C_WAIT: the response arrives and `next` acts at this same tick, or it is awaited further, without
bound (R44, R247). -/
def State.transferTick (next : State → State) (s : State) : State :=
  match s.env.xfer with
  | none => s
  | some x =>
    match x.left with
    | none => s
    | some n =>
      if n ≤ 1 then
        match s.arrive x.read x.err x.data with
        | .go s => next s
        | .stop s => s
      else { s with env := { s.env with xfer := some { x with left := some (n - 1) } } }

end Sys2Proof.Machine
end

