-- ==== Sys2Proof/Machine/Flags.lean ====
section
/-! DEFINITION. The two status flags VALID and INITED (10_state R35, R30, R31) and the one condition the block
computes, the checksum (40_sensor_query R142). There are no condition codes. -/

namespace Sys2Proof.Machine

/-- `VALID <- 0`, at the acceptance of every QUERY (R30). -/
def State.clearValid (s : State) : State := { s with valid := false }

/-- `HUM <- h; TEMP <- t; VALID <- 1`, in one tick (R29, 40_sensor_query R146). -/
def State.commitReading (h t : Int) (s : State) : State :=
  { s with hum := BitVec.ofInt 32 h, temp := BitVec.ofInt 32 t, valid := true }

/-- `INITED <- 1`; the sequence of the command's body begins with its first step (R31, 42_pwm_driver R184). -/
def State.markInited (s : State) : State := { s with inited := true, seq := 0 }

/-- `(RB0 + RB1 + RB2 + RB3) mod 256` (R142). -/
def checksum (r : ResultBytes) : Byte :=
  BitVec.ofNat 8 ((r.rb0.toNat + r.rb1.toNat + r.rb2.toNat + r.rb3.toNat) % 256)

/-- The frame is accepted iff the sum equals byte 4 (R142). -/
def ResultBytes.accepted (r : ResultBytes) : Bool := checksum r == r.rb4

/-- The info word of a ChecksumMismatch: computed sum in [15:8], received byte in [7:0] (30_encoding R102). -/
def mismatchInfo (r : ResultBytes) : Word32 := (checksum r).setWidth 32 <<< 8 ||| r.rb4.setWidth 32

/-- `STATUS`: bit 0 VALID, bit 1 INITED, the rest zero (10_state R40). -/
def State.statusReg (s : State) : Word32 := (0 : BitVec 30) ++ BitVec.ofBool s.inited ++ BitVec.ofBool s.valid

end Sys2Proof.Machine
end

