-- ==== Sys2Proof/Machine/Operands.lean ====
section
/-! DEFINITION. The operands of every command: their legal sets in the order a, b, c (60_exceptions R233, R238), and
what the block computes from them: the numbered registers (10_state R40), the prescale calculator (42_pwm_driver
R187), the tick bytes (20_memory R63), the servo and motor mappings (43_actuator_mapping R211, R212, R216, R217). -/

namespace Sys2Proof.Machine

open Sys2Proof.Config

/-- The index of the first operand outside its legal set, given each operand's legality in the order a, b, c. -/
def firstIllegal (legal : List Bool) : Option Nat := legal.findIdx? (! ·)

/-! ## The prescale calculator (42_pwm_driver R187) -/

/-- `round(25_000_000 / 4096 / f)`, rounded once, on naturals. -/
def prescaleQuotient (f : Nat) : Nat := (oscHz + 2048 * f) / (pwmSteps * f)

/-- `Prescale(f)`: defined iff `f ≥ 1` and `PRESCALE_MIN ≤ q − 1 ≤ 255`. -/
def prescale? (f : Nat) : Option Nat :=
  let p : Int := (prescaleQuotient f : Int) - 1
  if 1 ≤ f ∧ (prescaleMin : Int) ≤ p ∧ p ≤ 255 then some p.toNat else none

/-! ## Legal sets (R233) -/

/-- `QUERY`: `lineId < N_LINES`, `sensorFamily ≤ 1`. -/
def queryIllegal (p : Params) (lineId family : Nat) : Option Nat :=
  firstIllegal [decide (lineId < p.nLines), decide (family ≤ 1)]

/-- `RDREG`: register number 0..7. -/
def rdregIllegal (reg : Nat) : Option Nat := firstIllegal [decide (reg ≤ 7)]

/-- `SETFREQ`: `Prescale(freqHz)` is defined. -/
def setfreqIllegal (freqHz : Nat) : Option Nat := firstIllegal [(prescale? freqHz).isSome]

/-- `SETDUTY`: channel 0..15, ticks 0..4095. -/
def setdutyIllegal (channel onTick offTick : Nat) : Option Nat :=
  firstIllegal [decide (channel < nChannels), decide (onTick ≤ tickMax), decide (offTick ≤ tickMax)]

/-- `SERVO`: channel 0..15, degree 0..180. -/
def servoIllegal (channel degree : Nat) : Option Nat :=
  firstIllegal [decide (channel < nChannels), decide (degree ≤ 180)]

/-- `MOTOR`: index 1..MAX_MOTOR; every speed is legal. -/
def motorIllegal (p : Params) (index : Nat) : Option Nat :=
  firstIllegal [decide (1 ≤ index ∧ index ≤ p.maxMotor)]

/-- The first illegal operand of any command; INIT has none. -/
def illegalOperand (p : Params) : Instr → Option Nat
  | .query l f => queryIllegal p l f
  | .rdreg r => rdregIllegal r
  | .init => none
  | .setfreq f => setfreqIllegal f
  | .setduty c n f => setdutyIllegal c n f
  | .servo c d => servoIllegal c d
  | .motor i _ => motorIllegal p i

/-! ## The numbered registers (10_state R40) -/

/-- `x[n]`, zero-extended to 32 bits; no register has a number above 7. -/
def State.readReg (s : State) (n : Nat) : Option Word32 :=
  match n with
  | 0 => some s.statusReg
  | 1 => some s.hum
  | 2 => some s.temp
  | 3 => some (s.rb.rb0 ++ s.rb.rb1 ++ s.rb.rb2 ++ s.rb.rb3)
  | 4 => some (s.rb.rb4.setWidth 32)
  | 5 => some (s.cfgAddr.setWidth 32)
  | 6 => some (s.cfgFreq.setWidth 32)
  | 7 => some (s.cfgPrescale.setWidth 32)
  | _ => none

/-! ## Channel writes (20_memory R61, R63) -/

/-- The low byte of a 12-bit tick value. -/
def tickLow (v : Nat) : Byte := (BitVec.ofNat 12 v).extractLsb' 0 8

/-- The high byte: bits [11:8], zero-extended. -/
def tickHigh (v : Nat) : Byte := ((BitVec.ofNat 12 v).extractLsb' 8 4).setWidth 8

/-- `REG_CH_BASE + 4·ch` (R61). -/
def channelReg (p : Params) (ch : Nat) : Byte := BitVec.ofNat 8 (p.regChBase.toNat + 4 * ch)

/-- ON low, ON high, OFF low, OFF high (R61, R63). -/
def tickBytes (onTick offTick : Nat) : List Byte := [tickLow onTick, tickHigh onTick, tickLow offTick, tickHigh offTick]

/-! ## The actuator mappings (43_actuator_mapping) -/

/-- `pulseMicros = degree * 10 + 600` (R211). -/
def pulseMicros (degree : Nat) : Nat := degree * servoUsPerDeg + servoUsMin

/-- `ticks = floor(pulseMicros * 4096 / 20000)`, truncated (R212). -/
def servoTicks (degree : Nat) : Nat := pulseMicros degree * pwmSteps / servoPeriodUs

/-- `base = (MAX_MOTOR - index) * 2`, the forward channel; the reverse channel is the next one (R216). -/
def motorBase (p : Params) (index : Nat) : Nat := (p.maxMotor - index) * 2

/-- `mag = min(|speed| * SPEED_SCALE, 4095)`, on unbounded integers (R217). -/
def motorMagnitude (p : Params) (speed : Int) : Nat := min (speed.natAbs * p.speedScale) tickMax

end Sys2Proof.Machine
end

