-- ==== Sys2Proof/Machine/Pwm.lean ====
section
/-! DEFINITION. The PWM Controller Driver, unit 2 (42_pwm_driver): the register-write sequencer and the commands INIT,
SETFREQ and SETDUTY. A sequence is a list of actions; SEQ is the index of the next one (10_state R25, log 9). -/

namespace Sys2Proof.Machine

open Sys2Proof.Config

/-- One step of a register-write sequence (R184, R188, R192). -/
inductive Action where
  /-- `MemWrite(REG_MODE, 1, [MODE_RESET])` (R184) -/
  | writeModeReset
  /-- `OLDMODE <- MemRead(REG_MODE, 1)` (R188 step 1) -/
  | readMode
  /-- `MemWrite(REG_MODE, 1, [OLDMODE | 0x10])` (R188 step 2) -/
  | writeSleep
  /-- `MemWrite(REG_PRESCALE, 1, [p])` (R188 step 3) -/
  | writePrescale (p : Nat)
  /-- `MemWrite(REG_MODE, 1, [OLDMODE])` (R188 step 4) -/
  | restoreMode
  /-- `Delay(5000)` (R188 step 5) -/
  | oscWait
  /-- `MemWrite(REG_MODE, 1, [OLDMODE | 0xA1])` (R188 step 6) -/
  | writeWake
  /-- `CFG_FREQ <- f; CFG_PRESCALE <- p` (R188 step 7) -/
  | commitConfig (f p : Nat)
  /-- `INITED <- 1` (R184) -/
  | markInited
  /-- `SetChannelDuty(ch, n, f)` (R192) -/
  | writeChannel (ch onTick offTick : Nat)
  deriving DecidableEq, Repr

/-- `SetFreqSeq(f, p)` (R188). -/
def setFreqSeq (f p : Nat) : List Action :=
  [.readMode, .writeSleep, .writePrescale p, .restoreMode, .oscWait, .writeWake, .commitConfig f p]

/-- `Initialize()` (R184). -/
def initializeSeq : List Action :=
  .writeModeReset :: (setFreqSeq defaultFreq defaultPrescale ++ [.markInited])

/-- One action at the current tick; SEQ already names the step after it. -/
def State.act (a : Action) (s : State) : Flow :=
  match a with
  | .writeModeReset => s.memWrite s.par.regMode [s.par.modeReset]
  | .readMode => s.memRead s.par.regMode
  | .writeSleep => s.memWrite s.par.regMode [s.oldMode ||| modeSleep]
  | .writePrescale p => s.memWrite s.par.regPrescale [BitVec.ofNat 8 p]
  | .restoreMode => s.memWrite s.par.regMode [s.oldMode]
  | .oscWait => .stop { s with phase := .oscWait }.restartTimer
  | .writeWake => s.memWrite s.par.regMode [s.oldMode ||| modeWakeAi]
  | .commitConfig f p => .go { s with cfgFreq := BitVec.ofNat 16 f, cfgPrescale := BitVec.ofNat 8 p }
  | .markInited => .go s.markInited
  | .writeChannel ch n f => s.memWrite (channelReg s.par ch) (tickBytes n f)

/-- The actions still to do, as far as they get at the current tick; after the last one the command answers OK. -/
def State.runActions : List Action → State → State
  | [], s => s.respondOk 0
  | a :: rest, s =>
    match { s with seq := s.seq + 1 }.act a with
    | .go s => State.runActions rest s
    | .stop s => s

/-- What is left to do of a command with body `body`: the initialisation from step SEQ on and the whole body while
INITED = 0, the body from step SEQ on afterwards (R180, R182, log 9). -/
def State.pendingActions (body : List Action) (s : State) : List Action :=
  if s.inited then body.drop s.seq.toNat else initializeSeq.drop s.seq.toNat ++ body

/-- Go on with the sequence at the current tick. -/
def State.resumeSeq (body : List Action) (s : State) : State := s.runActions (s.pendingActions body)

/-- The acceptance tick of a command of units 2 and 3 (R180): validate, ensure initialised, body. -/
def State.acceptPwm (illegal : Option Nat) (body : List Action) (s : State) : State :=
  match illegal with
  | some k => s.raiseRange k
  | none => { s with st := .pwmSeq, phase := .none, seq := 0, txn := 0 }.resumeSeq body

/-- What a command of units 2 and 3 does at one tick: its acceptance in IDLE, otherwise the next tick of its wait
(R180, R181). -/
def execPwm (illegal : Option Nat) (body : List Action) (s : State) : Out :=
  match s.st, s.phase with
  | .idle, _ => .next (s.acceptPwm illegal body)
  | .pwmSeq, .i2cWait => .next (s.transferTick (State.resumeSeq body))
  | .pwmSeq, .oscWait => .next (s.delayTick tOscWait fun s => { s with phase := .none }.resumeSeq body)
  | _, _ => .fault .sequencerLost

/-- The body of INIT is empty: `EnsureInit()` is all (R183). -/
def initBody : List Action := []

/-- `INIT` (R183). -/
def execInit (s : State) : Out := execPwm none initBody s

/-- The body of SETFREQ: `SetFreqSeq(a, Prescale(a))` (R186). -/
def setfreqBody (freqHz : Nat) : List Action :=
  match prescale? freqHz with
  | some p => setFreqSeq freqHz p
  | none => []

/-- `SETFREQ hz` (R186). -/
def execSetfreq (freqHz : Nat) (s : State) : Out := execPwm (setfreqIllegal freqHz) (setfreqBody freqHz) s

/-- The body of SETDUTY: `SetChannelDuty(a, b, c)` (R190). -/
def setdutyBody (channel onTick offTick : Nat) : List Action := [.writeChannel channel onTick offTick]

/-- `SETDUTY ch, on, off` (R190). -/
def execSetduty (channel onTick offTick : Nat) (s : State) : Out :=
  execPwm (setdutyIllegal channel onTick offTick) (setdutyBody channel onTick offTick) s

end Sys2Proof.Machine
end

