-- ==== Sys2Proof/Machine/Actuator.lean ====
section
/-! DEFINITION. The Actuator Mapping Layer, unit 3 (43_actuator_mapping): SERVO and MOTOR. -/

namespace Sys2Proof.Machine

open Sys2Proof.Config

/-- The body of SERVO: `SetChannelDuty(a, 0, ticks)` (R210). -/
def servoBody (channel degree : Nat) : List Action := [.writeChannel channel 0 (servoTicks degree)]

/-- `SERVO ch, deg` (R210). -/
def execServo (channel degree : Nat) (s : State) : Out :=
  execPwm (servoIllegal channel degree) (servoBody channel degree) s

/-- The body of MOTOR: the driven channel first, then the zeroed one; speed 0 counts as forward (R215, R218). -/
def motorBody (p : Params) (index : Nat) (speed : Int) : List Action :=
  let fwd := motorBase p index
  let rev := motorBase p index + 1
  let mag := motorMagnitude p speed
  if 0 ≤ speed then [.writeChannel fwd 0 mag, .writeChannel rev 0 0]
  else [.writeChannel rev 0 mag, .writeChannel fwd 0 0]

/-- `MOTOR idx, speed` (R215). -/
def execMotor (index : Nat) (speed : Int) (s : State) : Out :=
  execPwm (motorIllegal s.par index) (motorBody s.par index speed) s

end Sys2Proof.Machine
end

