-- ==== Sys2Proof/Machine/Query.lean ====
section
/-! DEFINITION. QUERY, unit 1 (40_sensor_query): request pulse, bounded waits, bit-timing sampler, frame assembly,
checksum, decode. Each function is what the block does at one tick from a point of R130's pseudocode on, up to the
next primitive that takes time. -/

namespace Sys2Proof.Machine

open Sys2Proof.Config

/-! ## Frame assembly, checksum, decode (R140 to R146) -/

/-- `RBk = Σ_{j=0..7} FRAME[8k + j] · 2^(7−j)` (R140). -/
def assembleByte (f : Vector Bool 40) (k : Nat) : Byte :=
  BitVec.ofNat 8 (((List.range 8).map fun j => (f.toList.getD (8 * k + j) false).toNat * 2 ^ (7 - j)).sum)

/-- All five bytes (R140). -/
def assembleFrame (f : Vector Bool 40) : ResultBytes :=
  ⟨assembleByte f 0, assembleByte f 1, assembleByte f 2, assembleByte f 3, assembleByte f 4⟩

/-- DHT11-style humidity and temperature in hundredths (R144). -/
def decodeDht11 (r : ResultBytes) : Int × Int :=
  ((r.rb0.toNat * 100 + r.rb1.toNat : Nat), (r.rb2.toNat * 100 + r.rb3.toNat : Nat))

/-- DHT22-style humidity and temperature in hundredths; the temperature is sign and magnitude (R145). -/
def decodeDht22 (r : ResultBytes) : Int × Int :=
  let h : Nat := (r.rb0.toNat * 256 + r.rb1.toNat) * 10
  let m : Nat := ((r.rb2 &&& 0x7F).toNat * 256 + r.rb3.toNat) * 10
  (h, if r.rb2.getLsbD 7 then -(m : Int) else m)

/-- The family operand selects the formula: 0 is DHT11-style, 1 is DHT22-style (R130, 30_encoding R94). -/
def decodeReading (family : Nat) (r : ResultBytes) : Int × Int :=
  if family = 0 then decodeDht11 r else decodeDht22 r

/-- BYTE_ASSEMBLY: all five bytes in one tick (R140). -/
def State.assembleBytes (s : State) : State :=
  { s with st := .byteAssembly, phase := .none, rb := assembleFrame s.frame }

/-- DECODE and DONE (R144 to R146). -/
def State.decodeAndCommit (family : Nat) (s : State) : State :=
  let reading := decodeReading family s.rb
  { { s with st := .decode }.commitReading reading.1 reading.2 with st := .done }.respondOk 0

/-- CHECKSUM_VERIFY: accept, or raise ChecksumMismatch through ERROR (R142, R143). -/
def State.verifyChecksum (family : Nat) (s : State) : State :=
  let s := { s with st := .checksumVerify }
  if s.rb.accepted then s.decodeAndCommit family
  else { s with st := .error }.raise .checksumMismatch (mismatchInfo s.rb)

/-! ## The bit-timing sampler (R136, R138) -/

/-- The rise was seen at this tick: the fixed delay of 28 ticks starts (R136). -/
def State.startBitDelay (s : State) : State := { s with phase := .bitDelay }.restartTimer

/-- "wait for line to rise (data phase begins)", first look (R136). -/
def State.startBitRise (L : Nat) (s : State) : State :=
  { s with phase := .bitWaitRise }.restartTimer.look L true State.startBitDelay

/-- "wait for line to fall (start-of-bit edge)", first look (R136). -/
def State.startBitFall (L : Nat) (s : State) : State :=
  { s with phase := .bitWaitFall }.restartTimer.look L false (State.startBitRise L)

/-- `FRAME[i] <- Sample(L)` (R138); after the 40th sample the frame is assembled and judged at this tick (R139). -/
def State.sampleBit (L family : Nat) (s : State) : State :=
  let s := { s with frame := s.frame.setIfInBounds s.bitIdx.toNat (s.sample L), bitIdx := s.bitIdx + 1 }
  if nBits ≤ s.bitIdx.toNat then (s.assembleBytes).verifyChecksum family else s.startBitFall L

/-! ## Acknowledgement (R134) and request (R132) -/

/-- BIT_SAMPLING is entered with BITIDX 0 (10_state R23). -/
def State.startBitSampling (L : Nat) (s : State) : State :=
  { s with st := .bitSampling, bitIdx := 0 }.startBitFall L

/-- "ack end", first look (R134). -/
def State.startAckHigh (L : Nat) (s : State) : State :=
  { s with phase := .ackWaitHigh }.restartTimer.look L true (State.startBitSampling L)

/-- AWAIT_ACK is entered; "sensor ack start", first look (R134). -/
def State.startAwaitAck (L : Nat) (s : State) : State :=
  { s with st := .awaitAck, phase := .ackWaitLow }.restartTimer.look L false (State.startAckHigh L)

/-- The request pulse ends: release, optional pull-up, then 20 ticks without a look (R132). -/
def State.startReqWait (L : Nat) (s : State) : State :=
  { (s.release L).enablePullup L with phase := .reqWait }.restartTimer

/-- The acceptance tick of a QUERY: VALID is cleared before the operands are checked; then the request pulse starts
(R130, R146). -/
def State.acceptQuery (lineId family : Nat) (s : State) : State :=
  let s := s.clearValid
  match queryIllegal s.par lineId family with
  | some k => s.raiseRange k
  | none => { s.drive0 lineId with st := .requestSent, phase := .reqLow }.restartTimer

/-- What a QUERY does at one tick: its acceptance in IDLE, otherwise the next tick of the phase it is in (R130). -/
def execQuery (lineId family : Nat) (s : State) : Out :=
  match s.st, s.phase with
  | .idle, _ => .next (s.acceptQuery lineId family)
  | .requestSent, .reqLow => .next (s.delayTick tReqLow (State.startReqWait lineId))
  | .requestSent, .reqWait => .next (s.delayTick tReqWait (State.startAwaitAck lineId))
  | .awaitAck, .ackWaitLow => .next (s.waitTick lineId false 0 (State.startAckHigh lineId))
  | .awaitAck, .ackWaitHigh => .next (s.waitTick lineId true 1 (State.startBitSampling lineId))
  | .bitSampling, .bitWaitFall =>
    .next (s.waitTick lineId false (2 + 2 * s.bitIdx.toNat) (State.startBitRise lineId))
  | .bitSampling, .bitWaitRise => .next (s.waitTick lineId true (3 + 2 * s.bitIdx.toNat) State.startBitDelay)
  | .bitSampling, .bitDelay => .next (s.delayTick tBitDelay (State.sampleBit lineId family))
  | _, _ => .fault .sequencerLost

end Sys2Proof.Machine
end

