-- ==== Sys2Proof/Machine/Register.lean ====
section
/-! DEFINITION. RDREG, the accessor (41_register_read). -/

namespace Sys2Proof.Machine

/-- `RDREG reg`: the register's value in the tick of acceptance, or RangeError (R170). It is executed in IDLE only
(R172). -/
def execRdreg (reg : Nat) (s : State) : Out :=
  match s.st with
  | .idle =>
    .next (match s.readReg reg with
      | some v => s.respondOk v
      | none => s.raiseRange 0)
  | _ => .fault .sequencerLost

end Sys2Proof.Machine
end

