-- ==== Sys2Proof/Machine/Dispatch.lean ====
section
/-! DEFINITION. One arm per command. -/

namespace Sys2Proof.Machine

def exec (i : Instr) (s : State) : Host.Outcome State Fault Refusal :=
  match i with
  | .query lineId family => Sys2Proof.Machine.execQuery lineId family s
  | .rdreg reg => Sys2Proof.Machine.execRdreg reg s
  | .init => Sys2Proof.Machine.execInit s
  | .setfreq freqHz => Sys2Proof.Machine.execSetfreq freqHz s
  | .setduty channel onTick offTick => Sys2Proof.Machine.execSetduty channel onTick offTick s
  | .servo channel degree => Sys2Proof.Machine.execServo channel degree s
  | .motor index speed => Sys2Proof.Machine.execMotor index speed s

end Sys2Proof.Machine
end

