-- ==== Sys2Proof/Machine/Port.lean ====
section
/-! DEFINITION. The command port (10_state R42): which word is offered, its acceptance, and a word that spells no
command. -/

namespace Sys2Proof.Machine

/-- `cmd_valid` and `cmd` at the current tick: the next offer, once its tick has come (R42, log 8). -/
def State.offered (s : State) : Option CmdWord :=
  match s.env.offers with
  | [] => none
  | o :: _ => if o.tick ≤ s.env.now then some o.word else none

/-- The handshake takes the offered word off the port. -/
def State.takeOffer (s : State) : State := { s with env := { s.env with offers := s.env.offers.tail } }

/-- An accepted command word is latched in CMD (20_memory R79, 10_state R26). -/
def State.latch (w : CmdWord) (s : State) : State := { s.takeOffer with cmd := w }

/-- A word that spells no command: accepted, changes no state, answered in the same tick (30_encoding R95,
60_exceptions R236); CMD keeps its value (log 11). -/
def State.rejectWord (s : State) : State := s.takeOffer.raise .illegalCommand 0

/-- The state in which word `w` is offered for the next tick and that tick can accept it: the block is idle and is
not being reset. -/
def State.offerNext (w : CmdWord) (s : State) : State :=
  { s with
    st := .idle
    phase := .none
    env := { s.env with
      offers := ⟨0, w⟩ :: s.env.offers
      rstTicks := s.env.rstTicks.filter (· ≠ s.env.now + 1) } }

end Sys2Proof.Machine
end

