-- ==== Sys2Proof/Machine/Step.lean ====
section
/-! DEFINITION. One step of the machine is one tick (log 1). -/

namespace Sys2Proof.Machine

/-- A tick of the command in CMD: in progress after its acceptance, so CMD decodes. -/
def continueCommand (s : State) : Out :=
  match decode s.cmd with
  | .ok i => exec i s
  | .error _ => .fault .sequencerLost

/-- A tick in IDLE: nothing happens unless a word is offered; it is accepted, and runs if it spells a command. -/
def idleTick (s : State) : Out :=
  match s.offered with
  | none => .next s
  | some w =>
    match decode w with
    | .ok i => exec i (s.latch w)
    | .error _ => .next s.rejectWord

/-- The tick that has begun: reset first (70_reset_and_hazards R260), then the command in progress, or the command
port when there is none (10_state R42). -/
def runTick (s : State) : Out :=
  if s.rstNow then .next s.takeReset
  else if s.cmdReady then idleTick s
  else continueCommand s

/-- One tick. -/
def step (s : State) : Host.Outcome State Fault Refusal := runTick s.nextTick

/-- The state whose very next step accepts and runs the word `w` (log 7). -/
def State.withFetchWord (s : State) (nbits w : Nat) : State := s.offerNext (BitVec.ofNat 64 (w % 2 ^ nbits))

end Sys2Proof.Machine
end

