-- ==== Sys2Proof/Machine/Pseudocode.lean ====
section
/-! DEFINITION. The commands at the level of the spec's pseudocode (40_sensor_query R130, R133; 42_pwm_driver R180,
R184, R188): when each primitive acts and how the command ends, as a function of the line's levels or of the
transport's answers. The tick-by-tick sequencer of `execQuery` and `execPwm` is meant to do exactly this. -/

namespace Sys2Proof.Machine

open Sys2Proof.Config

/-! ## QUERY -/

/-- `WaitLevel(L, v, site)` from tick `s` on with `n` looks left: the tick of the first look that sees `v` (R133). -/
def firstLook (level : Nat → Bool) (v : Bool) : Nat → Nat → Option Nat
  | 0, _ => none
  | n + 1, s => if level s = v then some s else firstLook level v n (s + 1)

/-- How the part of a QUERY after its request ends: a wait expires at a tick, or 40 bits are sampled, the last one at a
tick. -/
inductive QueryEnd where
  | timedOut (site tick : Nat)
  | sampled (frame : Vector Bool 40) (tick : Nat)
  deriving DecidableEq, Repr

/-- The bit slots from slot `i` on, `n` of them, starting at tick `t` (R136, R138). -/
def sampleSlots (level : Nat → Bool) (limit : Nat) : Nat → Nat → Nat → Vector Bool 40 → QueryEnd
  | 0, _, t, f => .sampled f t
  | n + 1, i, t, f =>
    match firstLook level false limit t with
    | none => .timedOut (2 + 2 * i) (t + limit)
    | some fall =>
      match firstLook level true limit fall with
      | none => .timedOut (3 + 2 * i) (fall + limit)
      | some rise =>
        sampleSlots level limit n (i + 1) (rise + tBitDelay)
          (f.setIfInBounds i (level (rise + tBitDelay)))

/-- A QUERY accepted at tick `t0` with legal operands, on a line with these levels (R130, R132, R134). -/
def queryTimeline (level : Nat → Bool) (limit t0 : Nat) (f : Vector Bool 40) : QueryEnd :=
  let look0 := t0 + tReqLow + tReqWait
  match firstLook level false limit look0 with
  | none => .timedOut 0 (look0 + limit)
  | some ackStart =>
    match firstLook level true limit ackStart with
    | none => .timedOut 1 (ackStart + limit)
    | some ackEnd => sampleSlots level limit nBits 0 ackEnd f

/-! ## The register-write sequences -/

/-- What a sequence has done so far: the current tick, the transactions counted by TXN, the requests with their ticks,
and the registers it writes. -/
structure SeqView where
  now : Nat
  txn : Nat
  requests : List (Nat × I2cRequest)
  oldMode : Byte
  inited : Bool
  cfgFreq : Half
  cfgPrescale : Byte
  deriving DecidableEq, Repr

/-- How a sequence ends: with a response, or never, because the transport does not answer (60_exceptions R247). -/
inductive SeqEnd where
  | responds (status : Status) (info : Nat) (v : SeqView)
  | hangs (v : SeqView)
  deriving DecidableEq, Repr

/-- The request of an action that is a transaction (30_encoding R105). -/
def Action.request? (p : Params) (oldMode : Byte) : Action → Option I2cRequest
  | .writeModeReset => some (writeRequest p.i2cAddr p.regMode [p.modeReset])
  | .readMode => some (readRequest p.i2cAddr p.regMode)
  | .writeSleep => some (writeRequest p.i2cAddr p.regMode [oldMode ||| modeSleep])
  | .writePrescale x => some (writeRequest p.i2cAddr p.regPrescale [BitVec.ofNat 8 x])
  | .restoreMode => some (writeRequest p.i2cAddr p.regMode [oldMode])
  | .writeWake => some (writeRequest p.i2cAddr p.regMode [oldMode ||| modeWakeAi])
  | .writeChannel ch n f => some (writeRequest p.i2cAddr (channelReg p ch) (tickBytes n f))
  | .oscWait => none
  | .commitConfig _ _ => none
  | .markInited => none

/-- The effect of an action that is no transaction. -/
def SeqView.local (a : Action) (v : SeqView) : SeqView :=
  match a with
  | .oscWait => { v with now := v.now + tOscWait }
  | .commitConfig f x => { v with cfgFreq := BitVec.ofNat 16 f, cfgPrescale := BitVec.ofNat 8 x }
  | .markInited => { v with inited := true }
  | _ => v

/-- The straight-line run of a sequence, `answer n` being the transport's answer to the sequence's `n`-th transaction
(R180, R188, R194). -/
def seqTimeline (p : Params) (answer : Nat → I2cAnswer) : List Action → SeqView → SeqEnd
  | [], v => .responds .ok 0 v
  | a :: rest, v =>
    match a.request? p v.oldMode with
    | none => seqTimeline p answer rest (v.local a)
    | some req =>
      let ans := answer v.txn
      let v := { v with txn := v.txn + 1, requests := v.requests ++ [(v.now, req)] }
      match ans.latency with
      | none => .hangs v
      | some l =>
        let v := { v with now := v.now + l }
        if ans.err then .responds .transportError (v.txn - 1) v
        else seqTimeline p answer rest (if req.rw then { v with oldMode := ans.data } else v)

/-- What a command with this body has to do after validation: `EnsureInit()`, then the body (R180, R182). -/
def commandSeq (inited : Bool) (body : List Action) : List Action :=
  if inited then body else initializeSeq ++ body

/-- The body of a command of units 2 and 3. -/
def pwmBody (p : Params) : Instr → Option (List Action)
  | .query .. => none
  | .rdreg .. => none
  | .init => some initBody
  | .setfreq f => some (setfreqBody f)
  | .setduty c n f => some (setdutyBody c n f)
  | .servo c d => some (servoBody c d)
  | .motor i v => some (motorBody p i v)

end Sys2Proof.Machine
end

