-- ==== Sys2Proof/Safety.lean ====
section
/-! DEFINITION. The terms the claims are stated in: the invariant of the block between two ticks, what the I2C port may
show, what an observer of the ports sees, runs of several ticks. -/

namespace Sys2Proof.Machine

open Sys2Proof.Config

/-! ## Runs -/

/-- `n` ticks. -/
def stepN : Nat → State → Out
  | 0, s => .next s
  | n + 1, s =>
    match step s with
    | .next s => stepN n s
    | .fault r => .fault r
    | .refused r => .refused r

/-- The requests of `n` ticks with the tick of each, in order (20_memory R76). -/
def requestTrace : Nat → State → List (Nat × I2cRequest)
  | 0, _ => []
  | n + 1, s =>
    match step s with
    | .next s => s.i2cReq.map (fun r => (s.env.now, r)) ++ requestTrace n s
    | .fault _ => []
    | .refused _ => []

/-- The responses of `n` ticks with the tick of each, in order. -/
def responseTrace : Nat → State → List (Nat × RspWord)
  | 0, _ => []
  | n + 1, s =>
    match step s with
    | .next s => (s.rsp.toList.map fun w => (s.env.now, w)) ++ responseTrace n s
    | .fault _ => []
    | .refused _ => []

/-- `rst = 0` at the next `n` ticks. -/
def State.noResetFor (n : Nat) (s : State) : Prop :=
  ∀ t ∈ s.env.rstTicks, ¬(s.env.now < t ∧ t ≤ s.env.now + n)

/-- The next tick of an idle block accepts the word `w`. -/
def State.accepts (w : CmdWord) (s : State) : Prop :=
  s.st = .idle ∧ s.env.now + 1 ∉ s.env.rstTicks ∧
    ∃ k rest, s.env.offers = ⟨k, w⟩ :: rest ∧ k ≤ s.env.now + 1

/-! ## Where a QUERY waits -/

/-- The level a QUERY in a waiting phase waits for, and the site of the wait (40_sensor_query R134, R136). -/
def State.wait? (s : State) : Option (Bool × Nat) :=
  match s.st, s.phase with
  | .awaitAck, .ackWaitLow => some (false, 0)
  | .awaitAck, .ackWaitHigh => some (true, 1)
  | .bitSampling, .bitWaitFall => some (false, 2 + 2 * s.bitIdx.toNat)
  | .bitSampling, .bitWaitRise => some (true, 3 + 2 * s.bitIdx.toNat)
  | _, _ => none

/-- FRAME read as a 40-bit number with `FRAME[0]` the most significant bit (40_sensor_query R141). -/
def frameNumber (f : Vector Bool 40) : BitVec 40 := f.toList.foldl (fun n b => n <<< 1 ||| (BitVec.ofBool b).setWidth 40) 0

/-! ## The invariant -/

/-- An action that is one I2C transaction. -/
def Action.isTransfer : Action → Bool
  | .oscWait | .commitConfig _ _ | .markInited => false
  | _ => true

/-- How many I2C transactions a list of actions makes. -/
def transfers (as : List Action) : Nat := (as.filter Action.isTransfer).length

/-- The sequence that SEQ counts in: the initialisation while INITED = 0, then the body (42_pwm_driver R180, R182). -/
def State.program (body : List Action) (s : State) : List Action := if s.inited then body else initializeSeq

/-- The action SEQ has just passed: the one whose wait is running. -/
def State.lastAction (body : List Action) (s : State) : Option Action := (s.program body)[s.seq.toNat - 1]?

/-- A QUERY with legal operands is in CMD, and its acceptance has cleared VALID. -/
def QueryRunning (s : State) : Prop :=
  s.valid = false ∧ ∃ L f, decode s.cmd = .ok (.query L f) ∧ queryIllegal s.par L f = none

/-- A command of units 2 and 3 with legal operands is in CMD, and SEQ and TXN count its steps and transactions
(10_state R25): with a lazy initialisation behind it the count starts at 6. -/
def PwmRunning (s : State) : Prop :=
  ∃ i body, decode s.cmd = .ok i ∧ pwmBody s.par i = some body ∧ illegalOperand s.par i = none ∧
    1 ≤ s.seq.toNat ∧ s.seq.toNat ≤ (s.program body).length ∧
    (s.txn.toNat = transfers ((s.program body).take s.seq.toNat) ∨
      (s.inited = true ∧ s.txn.toNat = 6 + transfers (body.take s.seq.toNat))) ∧
    (s.phase = .oscWait → s.lastAction body = some .oscWait) ∧
    (s.phase = .i2cWait → ∃ a x, s.lastAction body = some a ∧ a.isTransfer = true ∧
      s.env.xfer = some x ∧ x.read = (a == .readMode) ∧ x.left ≠ some 0)

/-- ST and PHASE go together as in 10_state R22, with the command in CMD, and TMR and BITIDX are in range (R23, R24). -/
def ControlOk (s : State) : Prop :=
  match s.st, s.phase with
  | .idle, .none => True
  | .requestSent, .reqLow => QueryRunning s ∧ s.tmr.toNat < tReqLow
  | .requestSent, .reqWait => QueryRunning s ∧ s.tmr.toNat < tReqWait
  | .awaitAck, .ackWaitLow => QueryRunning s ∧ s.tmr.toNat < s.par.edgeTimeout
  | .awaitAck, .ackWaitHigh => QueryRunning s ∧ s.tmr.toNat < s.par.edgeTimeout
  | .bitSampling, .bitWaitFall => QueryRunning s ∧ s.tmr.toNat < s.par.edgeTimeout ∧ s.bitIdx.toNat < nBits
  | .bitSampling, .bitWaitRise => QueryRunning s ∧ s.tmr.toNat < s.par.edgeTimeout ∧ s.bitIdx.toNat < nBits
  | .bitSampling, .bitDelay => QueryRunning s ∧ s.tmr.toNat < tBitDelay ∧ s.bitIdx.toNat < nBits
  | .pwmSeq, .i2cWait => PwmRunning s
  | .pwmSeq, .oscWait => PwmRunning s ∧ s.tmr.toNat < tOscWait
  | _, _ => False

/-- At most one line is driven, the one of the query in its request pulse, and only then (10_state R34). -/
def LinesOk (s : State) : Prop :=
  (s.st = .requestSent ∧ s.phase = .reqLow → ∃ L f, decode s.cmd = .ok (.query L f) ∧ s.sdOe = [L]) ∧
    (¬(s.st = .requestSent ∧ s.phase = .reqLow) → s.sdOe = [])

/-- Pull-ups are enabled on existing lines only, and only if `PULLUP_EN` (R34). -/
def PullupsOk (s : State) : Prop :=
  s.sdPu.Pairwise (· < ·) ∧ (∀ L ∈ s.sdPu, L < s.par.nLines) ∧ (s.par.pullupEn = false → s.sdPu = [])

/-- While VALID = 1 the reading is the decode, by one of the two families, of the result bytes, and they pass the
checksum (10_state R28 to R30). -/
def ReadingOk (s : State) : Prop :=
  s.valid = true → s.rb.accepted = true ∧
    ∃ f ≤ 1, s.hum = BitVec.ofInt 32 (decodeReading f s.rb).1 ∧ s.temp = BitVec.ofInt 32 (decodeReading f s.rb).2

/-- CFG_FREQ and CFG_PRESCALE are written together: both 0, or the second is the prescale of the first; an initialised
block has a frequency (R32, 42_pwm_driver R184). -/
def ConfigOk (s : State) : Prop :=
  (s.cfgFreq = 0 ∧ s.cfgPrescale = 0 ∨ prescale? s.cfgFreq.toNat = some s.cfgPrescale.toNat) ∧
    (s.inited = true → s.cfgFreq ≠ 0)

/-- The invariant of the block between two ticks. -/
structure StateOk (s : State) : Prop where
  control : ControlOk s
  lines : LinesOk s
  pullups : PullupsOk s
  reading : ReadingOk s
  config : ConfigOk s
  /-- a transaction is outstanding in I2C_WAIT only (10_state R44) -/
  quiet : s.phase ≠ .i2cWait → s.env.xfer = none

/-! ## What the I2C port may show (20_memory R61, R66, 44_command_classes R222) -/

/-- A request the block may issue: a read of REG_MODE, a one-byte write of REG_MODE or REG_PRESCALE, or a four-byte
write of one channel's registers whose two high bytes are in [0, 15]. -/
def LegalRequest (p : Params) (r : I2cRequest) : Prop :=
  r = readRequest p.i2cAddr p.regMode ∨ (∃ v, r = writeRequest p.i2cAddr p.regMode [v]) ∨
    (∃ v, r = writeRequest p.i2cAddr p.regPrescale [v]) ∨
    ∃ ch n f, ch < nChannels ∧ n ≤ tickMax ∧ f ≤ tickMax ∧
      r = writeRequest p.i2cAddr (channelReg p ch) (tickBytes n f)

/-- A write of the prescale register. -/
def IsPrescaleWrite (p : Params) (r : I2cRequest) : Prop := ∃ v, r = writeRequest p.i2cAddr p.regPrescale [v]

/-- A write of the mode register with the sleep bit set. -/
def IsSleepWrite (p : Params) (r : I2cRequest) : Prop :=
  ∃ v, r = writeRequest p.i2cAddr p.regMode [v] ∧ v.getLsbD 4 = true

/-! ## Which status a command may end with (60_exceptions R234) -/

/-- The table of R234. -/
def mayEndWith : Instr → Status → Bool
  | _, .ok => true
  | _, .illegalCommand => false
  | .query .., st => st != .transportError
  | .rdreg .., st => st == .rangeError
  | .init, st => st == .transportError
  | _, st => st == .transportError || st == .rangeError

/-! ## What is not architectural (93_implementation_defined U8) -/

/-- Whether what is left to do uses OLDMODE before it is read anew. -/
def usesOldMode : List Action → Bool
  | [] => false
  | .readMode :: _ => false
  | .writeSleep :: _ => true
  | .restoreMode :: _ => true
  | .writeWake :: _ => true
  | _ :: rest => usesOldMode rest

/-- OLDMODE still matters to the command in progress. -/
def State.oldModeLive (s : State) : Bool :=
  match decode s.cmd with
  | .ok i =>
    match pwmBody s.par i with
    | some body => !(s.env.xfer.any (·.read)) && usesOldMode (s.pendingActions body)
    | none => false
  | .error _ => false

/-- The state with everything wiped that is not architectural where the sequencer stands (10_state R22, R27, R33; U8):
FRAME outside the bits already sampled, OLDMODE where no step still uses it, and in IDLE also TMR, SEQ, TXN, BITIDX
and CMD. -/
def State.scrub (s : State) : State :=
  match s.st with
  | .idle =>
    { s with tmr := 0, seq := 0, txn := 0, bitIdx := 0, cmd := 0, frame := Vector.replicate 40 false, oldMode := 0 }
  | .bitSampling =>
    { s with seq := 0, txn := 0, oldMode := 0, frame := s.frame.mapIdx fun i b => b && decide (i < s.bitIdx.toNat) }
  | .pwmSeq =>
    { s with
      tmr := if s.phase = .oscWait then s.tmr else 0
      bitIdx := 0
      frame := Vector.replicate 40 false
      oldMode := if s.oldModeLive then s.oldMode else 0 }
  | _ => { s with seq := 0, txn := 0, bitIdx := 0, oldMode := 0, frame := Vector.replicate 40 false }

/-! ## Duties of the host (70_reset_and_hazards R270) -/

/-- The cooldown between the response of one QUERY on a line and the acceptance of the next QUERY on the same line: a
duty of the host, which no rule of the block depends on. -/
def cooldownRespected (response acceptance : Nat) : Bool := decide (response + tCooldown ≤ acceptance)

end Sys2Proof.Machine
end

