-- ==== Sys2Proof/Certificates/Slice0/Obligations.lean ====
section
/-! DEFINITION. The statements about the model, for the provers. Each docstring names the rule of spec/ it formalises;
where a clause rests on a choice of the model's own, it names the row of the assumption log. -/

open Sys2Proof Sys2Proof.Machine Sys2Proof.Config

/-! ## Encoding -/

/-- 30_encoding R91, R92: no bit of a command is lost on the way through its word. -/
def Obligations.DecodeUndoesEncode : Prop :=
  ∀ i : Instr, i.wf = true → decode (encode i) = .ok i

/-- 30_encoding R91, R92: a word that decodes is the word of the command it decodes to. -/
def Obligations.EncodeUndoesDecode : Prop :=
  ∀ (w : CmdWord) (i : Instr), decode w = .ok i → i.wf = true ∧ encode i = w

/-- 30_encoding R92, R95: the decoder, written from the field layout, accepts exactly the words that R92's mask and
match columns select, each by exactly one row. -/
def Obligations.DecoderAgreesWithMaskTable : Prop :=
  ∀ w : CmdWord, selectedMnemonics w =
    match decode w with
    | .ok i => [i.mnemonic]
    | .error _ => []

/-- 30_encoding R107: each of the nine example commands has the word the rule gives it, and that word decodes to it. -/
def Obligations.SpecExampleWordsDecode : Prop :=
  encode (.query 0 0) = 0x0100000000000000 ∧ decode 0x0100000000000000 = .ok (.query 0 0) ∧
  encode (.query 0 1) = 0x0100000000010000 ∧ decode 0x0100000000010000 = .ok (.query 0 1) ∧
  encode (.rdreg 1) = 0x0200000100000000 ∧ decode 0x0200000100000000 = .ok (.rdreg 1) ∧
  encode .init = 0x1000000000000000 ∧ decode 0x1000000000000000 = .ok .init ∧
  encode (.setfreq 60) = 0x1100003C00000000 ∧ decode 0x1100003C00000000 = .ok (.setfreq 60) ∧
  encode (.setduty 3 0 2048) = 0x1200000300000800 ∧ decode 0x1200000300000800 = .ok (.setduty 3 0 2048) ∧
  encode (.servo 0 90) = 0x13000000005A0000 ∧ decode 0x13000000005A0000 = .ok (.servo 0 90) ∧
  encode (.motor 1 (-255)) = 0x14000001FF010000 ∧ decode 0x14000001FF010000 = .ok (.motor 1 (-255)) ∧
  encode (.motor 4 100) = 0x1400000400640000 ∧ decode 0x1400000400640000 = .ok (.motor 4 100)

/-! ## A step -/

/-- 10_state R42, 20_memory R79: in IDLE with `rst = 0` the offered word is accepted, taken off the port and latched in
CMD, and the step is what the command it spells does. That a word
which decodes is latched before its operands are checked is the model's reading (log 11). -/
def Obligations.StepRunsAcceptedCommand : Prop :=
  ∀ (s : State) (w : CmdWord) (i : Instr), s.accepts w → decode w = .ok i →
    step s = exec i (s.nextTick.latch w)

/-- 10_state R26: while the block is busy a step is what the command in CMD does next. -/
def Obligations.StepContinuesCommandInProgress : Prop :=
  ∀ (s : State) (i : Instr), s.st ≠ .idle → s.env.now + 1 ∉ s.env.rstTicks → decode s.cmd = .ok i →
    step s = exec i s.nextTick

/-- 60_exceptions R236, 30_encoding R95: a word that matches no row is accepted, changes no state, and is answered
`IllegalCommand` with info 0 in the same tick. CMD is among what
does not change (R95 and R236 against R79, log 11). -/
def Obligations.IllegalWordChangesNothing : Prop :=
  ∀ (s : State) (w : CmdWord), s.phase = .none → s.accepts w → selectedMnemonics w = [] →
    step s = .next { s.nextTick.takeOffer with rsp := some 0x0500000000 }

/-- 70_reset_and_hazards R264, 10_state R42: an idle block to which nothing is offered does nothing. -/
def Obligations.IdleTickChangesNothing : Prop :=
  ∀ s : State, s.st = .idle → s.env.now + 1 ∉ s.env.rstTicks →
    (∀ o ∈ s.env.offers.head?, s.env.now + 1 < o.tick) → step s = .next s.nextTick

/-- 70_reset_and_hazards R260, R263: a tick with `rst = 1` gives every register its reset value whatever the block was
doing, pulses no port, accepts no command, and forgets an outstanding transaction; the first tick with `rst = 0` is an ordinary
idle tick. -/
def Obligations.ResetTickResetsEverything : Prop :=
  ∀ s : State, s.env.now + 1 ∈ s.env.rstTicks → ∃ t, step s = .next t ∧
    t.st = .idle ∧ t.phase = .none ∧ t.bitIdx = 0 ∧ t.tmr = 0 ∧ t.seq = 0 ∧ t.txn = 0 ∧ t.cmd = 0 ∧
    (∀ k : Fin 40, t.frame[k] = false) ∧ t.rb = ⟨0, 0, 0, 0, 0⟩ ∧ t.hum = 0 ∧ t.temp = 0 ∧
    t.valid = false ∧ t.inited = false ∧ t.cfgAddr = s.par.i2cAddr ∧ t.cfgFreq = 0 ∧ t.cfgPrescale = 0 ∧
    t.oldMode = 0 ∧ (∀ L, t.sdOeAt L = false ∧ t.sdPuAt L = false) ∧
    t.cmdReady = true ∧ t.busy = false ∧ t.rspValid = false ∧ t.i2cReq = [] ∧
    t.par = s.par ∧ t.env = { s.env with now := s.env.now + 1, xfer := none } ∧
    (s.env.now + 2 ∉ s.env.rstTicks → step t = idleTick t.nextTick)

/-- 10_state R47, R20: what the state right after reset holds. -/
def Obligations.ResetStateHoldsTheSpecsValues : Prop :=
  State.reset.st = .idle ∧ State.reset.phase = .none ∧ State.reset.bitIdx = 0 ∧ State.reset.tmr = 0 ∧
  State.reset.seq = 0 ∧ State.reset.txn = 0 ∧ State.reset.cmd = 0 ∧
  (∀ k : Fin 40, State.reset.frame[k] = false) ∧ State.reset.rb = ⟨0, 0, 0, 0, 0⟩ ∧
  State.reset.hum = 0 ∧ State.reset.temp = 0 ∧ State.reset.valid = false ∧ State.reset.inited = false ∧
  State.reset.cfgAddr = State.reset.par.i2cAddr ∧ State.reset.cfgFreq = 0 ∧ State.reset.cfgPrescale = 0 ∧
  State.reset.oldMode = 0 ∧ (∀ L, State.reset.sdOeAt L = false ∧ State.reset.sdPuAt L = false)

/-! ## Failures -/

/-- 60_exceptions R233: the legal set of every operand, and the order a, b, c in which they are checked (R238); for
SETFREQ the set is the one 42_pwm_driver R186 computes, 24..12207. -/
def Obligations.LegalOperandSets : Prop :=
  ∀ p : Params,
    (∀ l f, illegalOperand p (.query l f) = if p.nLines ≤ l then some 0 else if 1 < f then some 1 else none) ∧
    (∀ r, illegalOperand p (.rdreg r) = if 7 < r then some 0 else none) ∧
    illegalOperand p .init = none ∧
    (∀ f, illegalOperand p (.setfreq f) = if f < 24 ∨ 12207 < f then some 0 else none) ∧
    (∀ c n f, illegalOperand p (.setduty c n f) =
      if 15 < c then some 0 else if 4095 < n then some 1 else if 4095 < f then some 2 else none) ∧
    (∀ c d, illegalOperand p (.servo c d) = if 15 < c then some 0 else if 180 < d then some 1 else none) ∧
    (∀ i v, illegalOperand p (.motor i v) = if i < 1 ∨ p.maxMotor < i then some 0 else none)

/-- 60_exceptions R233, R238, R240, R241: a command whose operand number `k` is the first outside its legal set answers
`RangeError(k)` in the tick of acceptance; nothing else changes, but for VALID when it is a QUERY. -/
def Obligations.RangeErrorHasNoOtherEffect : Prop :=
  ∀ (i : Instr) (s : State) (k : Nat), s.st = .idle → s.phase = .none → illegalOperand s.par i = some k →
    exec i s = .next { s with
      valid := if i.mnemonic = "QUERY" then false else s.valid
      rsp := some ((4 : BitVec 8) ++ BitVec.ofNat 32 k) }

/-- 60_exceptions R234, R230: which command can end with which status; every status the table allows does occur. -/
def Obligations.EndingStatuses : Prop :=
  (∀ (i : Instr) (s t : State) (w : RspWord), exec i s = .next t → s.rsp = none → t.rsp = some w →
    ∃ st info, w = responseWord st info ∧ mayEndWith i st = true) ∧
  (∀ (m : String) (st : Status), (∃ i : Instr, i.mnemonic = m ∧ mayEndWith i st = true) →
    ∃ (i : Instr) (s t : State) (info : Word32), i.mnemonic = m ∧ s.rsp = none ∧ exec i s = .next t ∧
      t.rsp = some (responseWord st info))

/-- 30_encoding R101: the code of every status; no response carries another one. -/
def Obligations.ResponsesCarryListedCodes : Prop :=
  (Status.ok.code = 0 ∧ Status.timeout.code = 1 ∧ Status.checksumMismatch.code = 2 ∧
    Status.transportError.code = 3 ∧ Status.rangeError.code = 4 ∧ Status.illegalCommand.code = 5) ∧
  ∀ (s t : State) (w : RspWord), step s = .next t → t.rsp = some w → (w.extractLsb' 32 8).toNat ≤ 5

/-- 10_state R42: exactly one response per accepted command and none otherwise: a tick pulses `rsp_valid` iff it is no
reset tick, a command was in progress or is accepted in it, and the block is idle after it. -/
def Obligations.ResponseExactlyAtCommandEnd : Prop :=
  ∀ s t : State, step s = .next t →
    (t.rspValid = true ↔ s.env.now + 1 ∉ s.env.rstTicks ∧ t.st = .idle ∧ (s.st ≠ .idle ∨ ∃ w, s.accepts w))

/-! ## QUERY -/

/-- 40_sensor_query R130, R132, R146: the acceptance tick of a QUERY with legal operands clears VALID and starts to pull
the line low; nothing else changes. -/
def Obligations.QueryAcceptanceStartsRequest : Prop :=
  ∀ (s : State) (L f : Nat), s.st = .idle → L < s.par.nLines → f ≤ 1 →
    ∃ t, exec (.query L f) s = .next t ∧ t.sdOeAt L = true ∧ (∀ M, M ≠ L → t.sdOeAt M = s.sdOeAt M) ∧
      t = { s with valid := false, st := .requestSent, phase := .reqLow, tmr := 0, sdOe := t.sdOe }

/-- 40_sensor_query R132: `SD_OE[L] = 1` at ticks t0 .. t0+17999 and 0 from t0+18000 on, where the pull-up is enabled if
PULLUP_EN; the block first looks at the line at tick t0+18020. -/
def Obligations.RequestPulseLasts18000Ticks : Prop :=
  ∀ (s : State) (w : CmdWord) (L f : Nat), StateOk s → s.accepts w → decode w = .ok (.query L f) →
    L < s.par.nLines → f ≤ 1 → s.noResetFor 18021 →
    (∀ k, k < 18000 → ∃ t, stepN (k + 1) s = .next t ∧ t.st = .requestSent ∧ t.sdOe = [L] ∧
      t.sdPu = s.sdPu ∧ t.rsp = none) ∧
    (∀ k, 18000 ≤ k → k < 18020 → ∃ t, stepN (k + 1) s = .next t ∧ t.sdOe = [] ∧ t.rsp = none ∧
      t.st = .requestSent ∧ ∀ M, t.sdPuAt M = (s.sdPuAt M || (s.par.pullupEn && M == L))) ∧
    ∃ t, stepN 18021 s = .next t ∧ t.st = .awaitAck ∧
      t.phase = if s.env.level L (s.env.now + 18021) = false then .ackWaitHigh else .ackWaitLow

/-- 40_sensor_query R133, 10_state R24: a look that does not see the awaited level, with looks left, only counts the tick;
so does a delay that is not over (00_scope R10, 40_sensor_query R132, R136). -/
def Obligations.QueryWaitsOnlyCountTicks : Prop :=
  (∀ (s : State) (L f site : Nat) (v : Bool), s.wait? = some (v, site) → s.sample L ≠ v →
    s.tmr.toNat + 1 < s.par.edgeTimeout → exec (.query L f) s = .next { s with tmr := s.tmr + 1 }) ∧
  ∀ (s : State) (L f n : Nat),
    (s.st = .requestSent ∧ s.phase = .reqLow ∧ n = 18000) ∨ (s.st = .requestSent ∧ s.phase = .reqWait ∧ n = 20) ∨
      (s.st = .bitSampling ∧ s.phase = .bitDelay ∧ n = 28) →
    s.tmr.toNat + 1 < n → exec (.query L f) s = .next { s with tmr := s.tmr + 1 }

/-- 40_sensor_query R133, R148, 60_exceptions R231, R240: after EDGE_TIMEOUT unsuccessful looks the QUERY ends with
`Timeout(site)`; no other register changes. -/
def Obligations.WaitExpiresWithTimeout : Prop :=
  ∀ (s : State) (L f site : Nat) (v : Bool), s.wait? = some (v, site) →
    s.tmr.toNat + 1 = s.par.edgeTimeout →
    exec (.query L f) s = .next { s with
      tmr := s.tmr + 1, st := .idle, phase := .none, rsp := some ((1 : BitVec 8) ++ BitVec.ofNat 32 site) }

/-- 40_sensor_query R133, R134, R135, R136: a look that sees the awaited level starts the next wait at this same tick,
and that wait, being for the other level, does not pass at this tick; after the rise of a slot the 28-tick delay starts. -/
def Obligations.WaitPassesToNextPhase : Prop :=
  ∀ (s : State) (L f : Nat), s.tmr.toNat + 1 < s.par.edgeTimeout →
    (s.st = .awaitAck → s.phase = .ackWaitLow → s.sample L = false →
      exec (.query L f) s = .next { s with phase := .ackWaitHigh, tmr := 0 }) ∧
    (s.st = .awaitAck → s.phase = .ackWaitHigh → s.sample L = true →
      exec (.query L f) s = .next { s with st := .bitSampling, bitIdx := 0, phase := .bitWaitFall, tmr := 0 }) ∧
    (s.st = .bitSampling → s.phase = .bitWaitFall → s.sample L = false →
      exec (.query L f) s = .next { s with phase := .bitWaitRise, tmr := 0 }) ∧
    (s.st = .bitSampling → s.phase = .bitWaitRise → s.sample L = true →
      exec (.query L f) s = .next { s with phase := .bitDelay, tmr := 0 })

/-- 40_sensor_query R136, R138: at the 28th tick after the rise the level is the bit, and slot `i + 1` starts at this
same tick: a line that is low has fallen already. -/
def Obligations.SampleDecidesTheBit : Prop :=
  ∀ (s : State) (L f : Nat), s.st = .bitSampling → s.phase = .bitDelay → s.tmr.toNat + 1 = 28 →
    s.bitIdx.toNat < 39 →
    exec (.query L f) s = .next { s with
      frame := s.frame.setIfInBounds s.bitIdx.toNat (s.sample L)
      bitIdx := s.bitIdx + 1
      phase := if s.sample L = false then .bitWaitRise else .bitWaitFall
      tmr := 0 }

/-- 40_sensor_query R139, R140, R142, R144, R145, R146: the 40th sample of a frame that passes the checksum completes the
QUERY in the same tick: result bytes, reading, VALID and the response OK. -/
def Obligations.QueryCompletesWithReading : Prop :=
  ∀ (s : State) (L f : Nat) (r : ResultBytes), s.st = .bitSampling → s.phase = .bitDelay →
    s.tmr.toNat + 1 = 28 → s.bitIdx.toNat = 39 →
    r = assembleFrame (s.frame.setIfInBounds 39 (s.sample L)) →
    (r.rb0.toNat + r.rb1.toNat + r.rb2.toNat + r.rb3.toNat) % 256 = r.rb4.toNat →
    exec (.query L f) s = .next { s with
      frame := s.frame.setIfInBounds 39 (s.sample L)
      bitIdx := 40
      tmr := s.tmr + 1
      rb := r
      hum := BitVec.ofInt 32 (decodeReading f r).1
      temp := BitVec.ofInt 32 (decodeReading f r).2
      valid := true
      st := .idle
      phase := .none
      rsp := some 0x0000000000 }

/-- 40_sensor_query R142, R143, 60_exceptions R232, 30_encoding R102: the 40th sample of a frame that fails the checksum
ends the QUERY with ChecksumMismatch, the computed sum and the received byte; the result bytes are written, HUM, TEMP and
VALID are not. -/
def Obligations.QueryRejectsBadChecksum : Prop :=
  ∀ (s : State) (L f : Nat) (r : ResultBytes), s.st = .bitSampling → s.phase = .bitDelay →
    s.tmr.toNat + 1 = 28 → s.bitIdx.toNat = 39 →
    r = assembleFrame (s.frame.setIfInBounds 39 (s.sample L)) →
    (r.rb0.toNat + r.rb1.toNat + r.rb2.toNat + r.rb3.toNat) % 256 ≠ r.rb4.toNat →
    exec (.query L f) s = .next { s with
      frame := s.frame.setIfInBounds 39 (s.sample L)
      bitIdx := 40
      tmr := s.tmr + 1
      rb := r
      st := .idle
      phase := .none
      rsp := some ((2 : BitVec 8) ++
        BitVec.ofNat 32 ((r.rb0.toNat + r.rb1.toNat + r.rb2.toNat + r.rb3.toNat) % 256 * 256 + r.rb4.toNat)) }

/-- 40_sensor_query R141: packing is by position only: byte `k` is bits [39 − 8k : 32 − 8k] of FRAME read as a 40-bit
number, so no bit influences any byte but its own. -/
def Obligations.FramePackingIsByPosition : Prop :=
  (∀ (f : Vector Bool 40) (k : Nat), k < 5 → assembleByte f k = (frameNumber f).extractLsb' (32 - 8 * k) 8) ∧
  ∀ (f : Vector Bool 40) (i k : Nat) (b : Bool), i < 40 → k < 5 → i / 8 ≠ k →
    assembleByte (f.setIfInBounds i b) k = assembleByte f k

/-- 40_sensor_query R151: flipping one bit of an accepted frame, in a data byte or in the checksum byte, makes it
rejected; two flips can cancel. -/
def Obligations.SingleBitFlipIsRejected : Prop :=
  (∀ (r : ResultBytes) (j : Nat), j < 8 → r.accepted = true →
    ({ r with rb0 := r.rb0 ^^^ (1#8 <<< j) } : ResultBytes).accepted = false ∧
    ({ r with rb1 := r.rb1 ^^^ (1#8 <<< j) } : ResultBytes).accepted = false ∧
    ({ r with rb2 := r.rb2 ^^^ (1#8 <<< j) } : ResultBytes).accepted = false ∧
    ({ r with rb3 := r.rb3 ^^^ (1#8 <<< j) } : ResultBytes).accepted = false ∧
    ({ r with rb4 := r.rb4 ^^^ (1#8 <<< j) } : ResultBytes).accepted = false) ∧
  ∃ (r : ResultBytes) (j : Nat), j < 8 ∧ r.accepted = true ∧
    ({ r with rb0 := r.rb0 ^^^ (1#8 <<< j), rb2 := r.rb2 ^^^ (1#8 <<< j) } : ResultBytes).accepted = true ∧
    r.rb0 ^^^ (1#8 <<< j) ≠ r.rb0

/-- 40_sensor_query R144, R145, R147: both decode formulas in hundredths, on the numbers the bytes stand for, with the
ranges written beside them; the DHT22-style temperature is sign and magnitude, and negative zero is 0; HUM and TEMP hold
the values exactly as two's complement. -/
def Obligations.DecodeFormulas : Prop :=
  (∀ r : ResultBytes,
    decodeReading 0 r =
      (((r.rb0.toNat * 100 + r.rb1.toNat : Nat) : Int), ((r.rb2.toNat * 100 + r.rb3.toNat : Nat) : Int)) ∧
    (decodeReading 1 r).1 = ((r.rb0.toNat * 256 + r.rb1.toNat) * 10 : Nat) ∧
    (decodeReading 1 r).2 =
      if r.rb2.toNat < 128 then (((r.rb2.toNat * 256 + r.rb3.toNat) * 10 : Nat) : Int)
      else -((((r.rb2.toNat - 128) * 256 + r.rb3.toNat) * 10 : Nat) : Int)) ∧
  (∀ r : ResultBytes, r.rb2 = 0x80 → r.rb3 = 0 → (decodeReading 1 r).2 = 0) ∧
  (∀ r : ResultBytes, 0 ≤ (decodeReading 0 r).1 ∧ (decodeReading 0 r).1 ≤ 25755 ∧
    0 ≤ (decodeReading 0 r).2 ∧ (decodeReading 0 r).2 ≤ 25755 ∧
    0 ≤ (decodeReading 1 r).1 ∧ (decodeReading 1 r).1 ≤ 655350 ∧
    -327670 ≤ (decodeReading 1 r).2 ∧ (decodeReading 1 r).2 ≤ 327670) ∧
  ∀ (f : Nat) (r : ResultBytes), f ≤ 1 →
    (BitVec.ofInt 32 (decodeReading f r).1).toInt = (decodeReading f r).1 ∧
    (BitVec.ofInt 32 (decodeReading f r).2).toInt = (decodeReading f r).2

/-- Frame of QUERY (44_command_classes R226, 40_sensor_query R130): at every tick of it, in whatever state, it leaves the
registers of the PWM unit, CMD, the parameters, the environment and the request port alone; lines other than its own keep
their outputs; the result bytes change only in the tick of its 40th sample; HUM and TEMP only together with `VALID <- 1`. -/
def Obligations.QueryFrame : Prop :=
  ∀ (s t : State) (L f : Nat), exec (.query L f) s = .next t →
    t.seq = s.seq ∧ t.txn = s.txn ∧ t.cmd = s.cmd ∧ t.inited = s.inited ∧ t.cfgFreq = s.cfgFreq ∧
    t.cfgPrescale = s.cfgPrescale ∧ t.oldMode = s.oldMode ∧ t.i2cReq = s.i2cReq ∧ t.par = s.par ∧ t.env = s.env ∧
    (∀ M, M ≠ L → t.sdOeAt M = s.sdOeAt M ∧ t.sdPuAt M = s.sdPuAt M) ∧
    (t.rb ≠ s.rb → s.phase = .bitDelay ∧ 39 ≤ s.bitIdx.toNat ∧ t.st = .idle) ∧
    (t.hum ≠ s.hum ∨ t.temp ≠ s.temp → t.valid = true ∧ t.rsp = some 0x0000000000) ∧
    (∀ k : Fin 40, k.val ≠ s.bitIdx.toNat → t.frame[k] = s.frame[k])

/-- 40_sensor_query R130, R133, R134, R136, R138 to R143, R146, R148: the tick-by-tick QUERY does what the pseudocode
does. From the acceptance tick t0 on, on a line with any levels and with no reset, it responds at the tick at which the
pseudocode ends, not before, and with the same outcome. -/
def Obligations.QueryRefinesPseudocode : Prop :=
  ∀ (s : State) (w : CmdWord) (L f : Nat), StateOk s → s.accepts w → decode w = .ok (.query L f) →
    L < s.par.nLines → f ≤ 1 → s.env.rstTicks = [] →
    match queryTimeline (s.env.level L) s.par.edgeTimeout (s.env.now + 1) s.frame with
    | .timedOut site tick =>
      ∃ t, stepN (tick - s.env.now) s = .next t ∧ t.env.now = tick ∧ t.st = .idle ∧ t.sdOe = [] ∧
        t.rb = s.rb ∧ t.hum = s.hum ∧ t.temp = s.temp ∧ t.valid = false ∧
        responseTrace (tick - s.env.now) s = [(tick, responseWord .timeout (BitVec.ofNat 32 site))]
    | .sampled frame tick =>
      ∃ t, stepN (tick - s.env.now) s = .next t ∧ t.env.now = tick ∧ t.st = .idle ∧ t.sdOe = [] ∧
        t.rb = assembleFrame frame ∧
        if (assembleFrame frame).accepted = true then
          t.hum = BitVec.ofInt 32 (decodeReading f (assembleFrame frame)).1 ∧
          t.temp = BitVec.ofInt 32 (decodeReading f (assembleFrame frame)).2 ∧ t.valid = true ∧
          responseTrace (tick - s.env.now) s = [(tick, responseWord .ok 0)]
        else
          t.hum = s.hum ∧ t.temp = s.temp ∧ t.valid = false ∧
          responseTrace (tick - s.env.now) s =
            [(tick, responseWord .checksumMismatch (mismatchInfo (assembleFrame frame)))]

/-- 40_sensor_query R149: the duration of a query whose 40 bits are all sampled. -/
def Obligations.SampledQueryDuration : Prop :=
  ∀ (level : Nat → Bool) (limit t0 : Nat) (f g : Vector Bool 40) (tick : Nat), 1 ≤ limit →
    queryTimeline level limit t0 f = .sampled g tick →
    t0 + 19182 ≤ tick ∧ tick ≤ t0 + 19140 + 82 * (limit - 1)

/-- 44_command_classes R221, 40_sensor_query R148: every QUERY ends, within 19140 + 82·(EDGE_TIMEOUT − 1) ticks of its
acceptance tick, whatever the line does. -/
def Obligations.QueryAlwaysEnds : Prop :=
  ∀ (s : State) (w : CmdWord) (L f : Nat), StateOk s → s.accepts w → decode w = .ok (.query L f) →
    s.noResetFor (19140 + 82 * (s.par.edgeTimeout - 1) + 1) →
    ∃ n t, n ≤ 19140 + 82 * (s.par.edgeTimeout - 1) ∧ stepN (n + 1) s = .next t ∧ t.st = .idle ∧ t.rspValid = true

/-! ## RDREG -/

/-- 41_register_read R170, 10_state R40: RDREG answers the register's 32-bit value in the tick of acceptance, or
RangeError for a number above 7, and changes no state. -/
def Obligations.RdregAnswersRegister : Prop :=
  ∀ s : State, s.st = .idle → s.phase = .none →
    exec (.rdreg 0) s = .next { s with
      rsp := some ((0 : BitVec 8) ++ ((0 : BitVec 30) ++ BitVec.ofBool s.inited ++ BitVec.ofBool s.valid)) } ∧
    exec (.rdreg 1) s = .next { s with rsp := some ((0 : BitVec 8) ++ s.hum) } ∧
    exec (.rdreg 2) s = .next { s with rsp := some ((0 : BitVec 8) ++ s.temp) } ∧
    exec (.rdreg 3) s = .next { s with
      rsp := some ((0 : BitVec 8) ++ (s.rb.rb0 ++ s.rb.rb1 ++ s.rb.rb2 ++ s.rb.rb3)) } ∧
    exec (.rdreg 4) s = .next { s with rsp := some ((0 : BitVec 32) ++ s.rb.rb4) } ∧
    exec (.rdreg 5) s = .next { s with rsp := some ((0 : BitVec 33) ++ s.par.i2cAddr) } ∧
    exec (.rdreg 6) s = .next { s with rsp := some ((0 : BitVec 24) ++ s.cfgFreq) } ∧
    exec (.rdreg 7) s = .next { s with rsp := some ((0 : BitVec 32) ++ s.cfgPrescale) } ∧
    ∀ n, 7 < n → exec (.rdreg n) s = .next { s with rsp := some 0x0400000000 }

/-! ## The PWM unit -/

/-- 42_pwm_driver R183, R182: with INITED = 1, INIT issues no transaction and responds OK in the tick of acceptance.
The value of SEQ is the model's numbering (log 9). -/
def Obligations.InitIsIdempotent : Prop :=
  ∀ s : State, s.st = .idle → s.inited = true →
    exec .init s = .next { s with phase := .none, seq := 0, txn := 0, rsp := some 0x0000000000 }

/-- 42_pwm_driver R180, R184, R185, R188: the first PWM command after reset, whichever it is, begins with the
initialisation. When the transport answers at once, its first five transactions are those of R185 with `m` the byte
read, and then the oscillator wait starts.
The value of SEQ is the model's numbering (log 9). -/
def Obligations.LazyInitialisationComesFirst : Prop :=
  ∀ (s : State) (i : Instr) (body : List Action) (a0 a1 a2 a3 a4 : I2cAnswer) (rest : List I2cAnswer),
    s.st = .idle → s.inited = false → pwmBody s.par i = some body → illegalOperand s.par i = none →
    s.env.answers = a0 :: a1 :: a2 :: a3 :: a4 :: rest →
    (∀ a ∈ [a0, a1, a2, a3, a4], a.latency = some 0 ∧ a.err = false) →
    exec i s = .next { s with
      st := .pwmSeq
      phase := .oscWait
      tmr := 0
      seq := 6
      txn := 5
      oldMode := a1.data
      i2cReq := s.i2cReq ++
        [writeRequest s.par.i2cAddr s.par.regMode [s.par.modeReset],
         readRequest s.par.i2cAddr s.par.regMode,
         writeRequest s.par.i2cAddr s.par.regMode [a1.data ||| 0x10],
         writeRequest s.par.i2cAddr s.par.regPrescale [121],
         writeRequest s.par.i2cAddr s.par.regMode [a1.data]]
      env := { s.env with answers := rest, serial := s.env.serial + 5, xfer := none } }

/-- 42_pwm_driver R184, R188: when the last transaction of the initialisation succeeds, INIT ends: CFG_FREQ = 50,
CFG_PRESCALE = 121, INITED = 1, and the response OK. The value of SEQ is the model's numbering (log 9). -/
def Obligations.InitCompletes : Prop :=
  ∀ (s : State) (x : Transfer), s.st = .pwmSeq → s.phase = .i2cWait → s.inited = false → s.seq = 7 →
    s.env.xfer = some x → x.read = false → x.left = some 1 → x.err = false →
    exec .init s = .next { s with
      cfgFreq := 50
      cfgPrescale := 121
      inited := true
      seq := 0
      st := .idle
      phase := .none
      env := { s.env with xfer := none }
      rsp := some 0x0000000000 }

/-- 42_pwm_driver R186, R188: when the final mode write of a SETFREQ succeeds, it ends: CFG_FREQ and CFG_PRESCALE are
written, and the response is OK. The value of SEQ is the model's numbering (log 9). -/
def Obligations.SetfreqCompletes : Prop :=
  ∀ (s : State) (x : Transfer) (f p : Nat), s.st = .pwmSeq → s.phase = .i2cWait → s.inited = true → s.seq = 6 →
    s.env.xfer = some x → x.read = false → x.left = some 1 → x.err = false → prescale? f = some p →
    exec (.setfreq f) s = .next { s with
      cfgFreq := BitVec.ofNat 16 f
      cfgPrescale := BitVec.ofNat 8 p
      seq := 7
      st := .idle
      phase := .none
      env := { s.env with xfer := none }
      rsp := some 0x0000000000 }

/-- 42_pwm_driver R190, R192, 30_encoding R105: with INITED = 1 and a transport that answers at once, SETDUTY is one
five-byte write: register REG_CH_BASE + 4·ch, then ON low, ON high, OFF low, OFF high.
The value of SEQ is the model's numbering (log 9). -/
def Obligations.SetdutyWritesOneChannel : Prop :=
  ∀ (s : State) (ch n f : Nat) (a : I2cAnswer) (rest : List I2cAnswer), s.st = .idle → s.inited = true →
    ch ≤ 15 → n ≤ 4095 → f ≤ 4095 → s.env.answers = a :: rest → a.latency = some 0 → a.err = false →
    exec (.setduty ch n f) s = .next { s with
      phase := .none
      seq := 1
      txn := 1
      i2cReq := s.i2cReq ++ [
        { rw := false, addr := s.par.i2cAddr, len := 5
          data := BitVec.ofNat 8 (f / 256) ++ BitVec.ofNat 8 (f % 256) ++ BitVec.ofNat 8 (n / 256) ++
            BitVec.ofNat 8 (n % 256) ++ BitVec.ofNat 8 (s.par.regChBase.toNat + 4 * ch) }]
      env := { s.env with answers := rest, serial := s.env.serial + 1, xfer := none }
      rsp := some 0x0000000000 }

/-- 43_actuator_mapping R210, R211, R212: with INITED = 1 and a transport that answers at once, SERVO is one write of its
channel with on tick 0 and off tick `floor((10·deg + 600)·4096 / 20000)`.
The value of SEQ is the model's numbering (log 9). -/
def Obligations.ServoWritesTruncatedTicks : Prop :=
  ∀ (s : State) (ch deg : Nat) (a : I2cAnswer) (rest : List I2cAnswer), s.st = .idle → s.inited = true →
    ch ≤ 15 → deg ≤ 180 → s.env.answers = a :: rest → a.latency = some 0 → a.err = false →
    exec (.servo ch deg) s = .next { s with
      phase := .none
      seq := 1
      txn := 1
      i2cReq := s.i2cReq ++ [
        { rw := false, addr := s.par.i2cAddr, len := 5
          data := BitVec.ofNat 8 ((10 * deg + 600) * 4096 / 20000 / 256) ++
            BitVec.ofNat 8 ((10 * deg + 600) * 4096 / 20000 % 256) ++ (0 : BitVec 16) ++
            BitVec.ofNat 8 (s.par.regChBase.toNat + 4 * ch) }]
      env := { s.env with answers := rest, serial := s.env.serial + 1, xfer := none }
      rsp := some 0x0000000000 }

/-- 43_actuator_mapping R215 to R218: with INITED = 1 and a transport that answers at once, MOTOR drives one channel of
its pair with the clamped magnitude and then zeroes the other; speed 0 counts as forward.
The value of SEQ is the model's numbering (log 9), and two requests in one tick are its port list (log 15). -/
def Obligations.MotorDrivesThenZeroes : Prop :=
  ∀ (s : State) (idx : Nat) (speed : Int) (a b : I2cAnswer) (rest : List I2cAnswer) (fwd rev mag : Nat),
    s.st = .idle → s.inited = true → 1 ≤ idx → idx ≤ s.par.maxMotor → s.env.answers = a :: b :: rest →
    a.latency = some 0 → a.err = false → b.latency = some 0 → b.err = false →
    fwd = (s.par.maxMotor - idx) * 2 → rev = fwd + 1 → mag = min (speed.natAbs * s.par.speedScale) 4095 →
    exec (.motor idx speed) s = .next { s with
      phase := .none
      seq := 2
      txn := 2
      i2cReq := s.i2cReq ++ [
        { rw := false, addr := s.par.i2cAddr, len := 5
          data := BitVec.ofNat 8 (mag / 256) ++ BitVec.ofNat 8 (mag % 256) ++ (0 : BitVec 16) ++
            BitVec.ofNat 8 (s.par.regChBase.toNat + 4 * if 0 ≤ speed then fwd else rev) },
        { rw := false, addr := s.par.i2cAddr, len := 5
          data := (0 : BitVec 32) ++ BitVec.ofNat 8 (s.par.regChBase.toNat + 4 * if 0 ≤ speed then rev else fwd) }]
      env := { s.env with answers := rest, serial := s.env.serial + 2, xfer := none }
      rsp := some 0x0000000000 }

/-- 42_pwm_driver R194, 60_exceptions R235, R240, R241: when the answer to an outstanding transaction is an error, the
command ends at that tick with `TransportError(TXN − 1)`: nothing more is issued and no other register changes. -/
def Obligations.TransportErrorEndsCommand : Prop :=
  ∀ (s : State) (i : Instr) (body : List Action) (x : Transfer), pwmBody s.par i = some body →
    s.st = .pwmSeq → s.phase = .i2cWait → s.env.xfer = some x → x.left = some 1 → x.err = true → 1 ≤ s.txn.toNat →
    exec i s = .next { s with
      st := .idle
      phase := .none
      env := { s.env with xfer := none }
      rsp := some ((3 : BitVec 8) ++ BitVec.ofNat 32 (s.txn.toNat - 1)) }

/-- 10_state R44, 60_exceptions R247: a transaction whose answer has not come is awaited, without bound, and nothing
changes meanwhile; the oscillator wait counts its ticks (42_pwm_driver R188).
That the block goes on taking ticks in such a wait is the model's reading (log 13). -/
def Obligations.PwmWaitsChangeNothing : Prop :=
  ∀ (s : State) (i : Instr) (body : List Action), pwmBody s.par i = some body → s.st = .pwmSeq →
    (∀ x, s.phase = .i2cWait → s.env.xfer = some x → x.left = none → exec i s = .next s) ∧
    (∀ x n, s.phase = .i2cWait → s.env.xfer = some x → x.left = some (n + 2) →
      exec i s = .next { s with env := { s.env with xfer := some { x with left := some (n + 1) } } }) ∧
    (s.phase = .oscWait → s.tmr.toNat + 1 < 5000 → exec i s = .next { s with tmr := s.tmr + 1 })

/-- Frame of the commands of units 2 and 3 (44_command_classes R226): at every tick, in whatever state, they leave the
decoder unit's registers, the lines, CMD, the parameters and the environment's inputs alone, and only add to the request
port. With INITED = 1 only SETFREQ changes CFG_FREQ and CFG_PRESCALE. -/
def Obligations.PwmFrame : Prop :=
  ∀ (s t : State) (i : Instr) (body : List Action), pwmBody s.par i = some body → exec i s = .next t →
    t.bitIdx = s.bitIdx ∧ t.cmd = s.cmd ∧ t.frame = s.frame ∧ t.rb = s.rb ∧ t.hum = s.hum ∧ t.temp = s.temp ∧
    t.valid = s.valid ∧ t.sdOe = s.sdOe ∧ t.sdPu = s.sdPu ∧ t.par = s.par ∧
    t.env.now = s.env.now ∧ t.env.offers = s.env.offers ∧ t.env.rstTicks = s.env.rstTicks ∧
    t.env.lines = s.env.lines ∧ (∃ sent, t.i2cReq = s.i2cReq ++ sent) ∧
    (s.inited = true → t.inited = true) ∧
    (s.inited = true → i.mnemonic ≠ "SETFREQ" → t.cfgFreq = s.cfgFreq ∧ t.cfgPrescale = s.cfgPrescale)

/-- 42_pwm_driver R180, R184, R188, R192, R194, R195, 20_memory R76, 60_exceptions R247: the tick-by-tick sequencer of
every command of units 2 and 3 does what the pseudocode does, whatever the transport answers and however late: the same
requests at the same ticks, the same registers, the same response at the same tick and only then; if an answer never
comes, no response ever. -/
def Obligations.PwmRefinesPseudocode : Prop :=
  ∀ (s : State) (w : CmdWord) (i : Instr) (body : List Action), StateOk s → s.accepts w → decode w = .ok i →
    pwmBody s.par i = some body → illegalOperand s.par i = none → s.env.rstTicks = [] →
    match seqTimeline s.par (fun n => (s.env.answers[n]?).getD (freeAnswer (s.env.serial + n)))
        (commandSeq s.inited body)
        ⟨s.env.now + 1, 0, [], s.oldMode, s.inited, s.cfgFreq, s.cfgPrescale⟩ with
    | .responds status info v =>
      ∃ t, stepN (v.now - s.env.now) s = .next t ∧ t.env.now = v.now ∧ t.st = .idle ∧ t.inited = v.inited ∧
        t.cfgFreq = v.cfgFreq ∧ t.cfgPrescale = v.cfgPrescale ∧ t.oldMode = v.oldMode ∧
        requestTrace (v.now - s.env.now) s = v.requests ∧
        responseTrace (v.now - s.env.now) s = [(v.now, responseWord status (BitVec.ofNat 32 info))]
    | .hangs v =>
      ∀ n, v.now - s.env.now ≤ n → ∃ t, stepN n s = .next t ∧ t.st = .pwmSeq ∧ t.phase = .i2cWait ∧
        requestTrace n s = v.requests ∧ responseTrace n s = []

/-- 42_pwm_driver R185, R195: the six transactions of an initialisation that meets no error, with their ticks for any
latencies, and the 5000 ticks between the fifth and the sixth. -/
def Obligations.InitialisationTransactions : Prop :=
  ∀ (p : Params) (answer : Nat → I2cAnswer) (l : Nat → Nat) (v : SeqView), v.txn = 0 → v.requests = [] →
    (∀ n, n < 6 → (answer n).latency = some (l n) ∧ (answer n).err = false) →
    seqTimeline p answer initializeSeq v = .responds .ok 0
      { now := v.now + l 0 + l 1 + l 2 + l 3 + l 4 + 5000 + l 5
        txn := 6
        requests :=
          [(v.now, writeRequest p.i2cAddr p.regMode [p.modeReset]),
           (v.now + l 0, readRequest p.i2cAddr p.regMode),
           (v.now + l 0 + l 1, writeRequest p.i2cAddr p.regMode [(answer 1).data ||| 0x10]),
           (v.now + l 0 + l 1 + l 2, writeRequest p.i2cAddr p.regPrescale [121]),
           (v.now + l 0 + l 1 + l 2 + l 3, writeRequest p.i2cAddr p.regMode [(answer 1).data]),
           (v.now + l 0 + l 1 + l 2 + l 3 + l 4 + 5000, writeRequest p.i2cAddr p.regMode [(answer 1).data ||| 0xA1])]
        oldMode := (answer 1).data
        inited := true
        cfgFreq := 50
        cfgPrescale := 121 }

/-! ## What the commands compute -/

/-- 42_pwm_driver R186, R187: the frequencies with a prescale are 24..12207, and the prescale plus one is the nearest
integer to 25 000 000 / 4096 / f, never a tie. -/
def Obligations.PrescaleIsNearestInteger : Prop :=
  (∀ f, (prescale? f).isSome = true ↔ 24 ≤ f ∧ f ≤ 12207) ∧
  ∀ f p, prescale? f = some p → p ≤ 255 ∧
    2 * ((25000000 : Int) - 4096 * f * (p + 1)).natAbs < 4096 * f

/-- 42_pwm_driver R196: the table of values. -/
def Obligations.PrescaleTable : Prop :=
  [0, 1, 23, 24, 40, 50, 60, 100, 200, 1000, 1526, 12207, 12208, 65535].map prescale? =
    [none, none, none, some 253, some 152, some 121, some 101, some 60, some 30, some 5, some 3, some 0, none, none]

/-- 43_actuator_mapping R214, R212: the servo mapping is monotone with no rounding up, and stays within [122, 491]. -/
def Obligations.ServoTicksInRange : Prop :=
  ∀ d, d ≤ 180 → 122 ≤ servoTicks d ∧ servoTicks d ≤ 491 ∧
    servoTicks d * 20000 ≤ (10 * d + 600) * 4096 ∧ (10 * d + 600) * 4096 < (servoTicks d + 1) * 20000 ∧
    (10 * d + 600) * 4096 ≤ 9830400

/-- 43_actuator_mapping R213: the table of values. -/
def Obligations.ServoTable : Prop :=
  [0, 1, 45, 90, 91, 135, 179, 180].map (fun d => (pulseMicros d, servoTicks d, tickBytes 0 (servoTicks d))) =
    [(600, 122, [0x00, 0x00, 0x7A, 0x00]), (610, 124, [0x00, 0x00, 0x7C, 0x00]),
     (1050, 215, [0x00, 0x00, 0xD7, 0x00]), (1500, 307, [0x00, 0x00, 0x33, 0x01]),
     (1510, 309, [0x00, 0x00, 0x35, 0x01]), (1950, 399, [0x00, 0x00, 0x8F, 0x01]),
     (2390, 489, [0x00, 0x00, 0xE9, 0x01]), (2400, 491, [0x00, 0x00, 0xEB, 0x01])]

/-- 43_actuator_mapping R216, R217: a legal motor's channel pair starts at twice its distance from MAX_MOTOR and lies
among 0..15; different motors share no channel; the magnitude is the product on unbounded integers where that is at most
4095, and 4095 where it is more, never a wrapped product, the most negative speed among them. -/
def Obligations.MotorPairsAreDisjoint : Prop :=
  (∀ (p : Params) (i : Nat), 1 ≤ i → i ≤ p.maxMotor →
    motorBase p i = (p.maxMotor - i) * 2 ∧ motorBase p i + 1 ≤ 15) ∧
  (∀ (p : Params) (i j : Nat), 1 ≤ i → i ≤ p.maxMotor → 1 ≤ j → j ≤ p.maxMotor → i ≠ j →
    motorBase p i ≠ motorBase p j ∧ motorBase p i ≠ motorBase p j + 1 ∧ motorBase p i + 1 ≠ motorBase p j) ∧
  (∀ (p : Params) (v : Int),
    (v.natAbs * p.speedScale ≤ 4095 → motorMagnitude p v = v.natAbs * p.speedScale) ∧
    (4095 < v.natAbs * p.speedScale → motorMagnitude p v = 4095)) ∧
  ∀ p : Params, motorMagnitude p (-32768) = 4095 ∧ motorMagnitude p 0 = 0

/-- 20_memory R63, 10_state R44: a tick value in [0, 4095] is split into its low byte and a high byte in [0, 15], and
payload byte `k` of a request is bits [8k+7:8k], bytes at or above the length being 0. -/
def Obligations.BytesInBusOrder : Prop :=
  (∀ v, v ≤ 4095 → (tickLow v).toNat = v % 256 ∧ (tickHigh v).toNat = v / 256 ∧ (tickHigh v).toNat ≤ 15 ∧
    (tickLow v).toNat + 256 * (tickHigh v).toNat = v) ∧
  ∀ (bytes : List Byte) (k : Nat), bytes.length ≤ 5 → k < 5 →
    (packPayload bytes).extractLsb' (8 * k) 8 = bytes.getD k 0

/-- 42_pwm_driver R198, 20_memory R67, R70: the channel address never overflows its byte and never meets the mode or the
prescale register. -/
def Obligations.ChannelAddressesAreSafe : Prop :=
  ∀ (p : Params) (ch k : Nat), ch ≤ 15 → k ≤ 3 →
    (channelReg p ch).toNat = p.regChBase.toNat + 4 * ch ∧ (channelReg p ch).toNat ≤ 252 ∧
    (channelReg p ch).toNat + k ≠ p.regMode.toNat ∧ (channelReg p ch).toNat + k ≠ p.regPrescale.toNat

/-- 20_memory R73: while the block drives a line the level it reads there is 0; on every other line it reads what the
environment supplies. -/
def Obligations.DrivenLineReadsLow : Prop :=
  ∀ (s : State) (L : Nat), ((s.drive0 L).sample L = false) ∧ (∀ M, s.sdOeAt M = true → s.sample M = false) ∧
    ∀ M, M ≠ L → (s.drive0 L).sample M = s.sample M ∧
      ((s.release L).sample L = s.env.level L s.env.now)

/-! ## Rules of the whole machine -/

/-- The state after reset meets the invariant. -/
def Obligations.ResetMeetsInvariant : Prop := StateOk State.reset

/-- 10_state R21 to R25, R28 to R34: every tick keeps the invariant. What it says of SEQ is the model's
numbering (log 9). -/
def Obligations.StepKeepsInvariant : Prop := ∀ s t : State, StateOk s → step s = .next t → StateOk t

/-- No step of a block that meets the invariant stops: neither a fault nor a refusal (log 12, log 13). -/
def Obligations.StepNeverStops : Prop := ∀ s : State, StateOk s → ∃ t, step s = .next t

/-- 10_state R29, R30, R46: HUM, TEMP and a rising VALID come only from the tick in which a QUERY succeeds, VALID falls
only when a QUERY is accepted, or all by reset. -/
def Obligations.ReadingBelongsToTheDecoder : Prop :=
  ∀ s t : State, step s = .next t → s.env.now + 1 ∉ s.env.rstTicks →
    (t.hum ≠ s.hum ∨ t.temp ≠ s.temp ∨ (s.valid = false ∧ t.valid = true) →
      t.valid = true ∧ t.rb.accepted = true ∧ t.rsp = some 0x0000000000 ∧
        ∃ L f, decode s.cmd = .ok (.query L f) ∧ s.phase = .bitDelay) ∧
    (s.valid = true → t.valid = false → ∃ w L f, s.accepts w ∧ decode w = .ok (.query L f))

/-- 10_state R31, R32: INITED is cleared by reset only; the parameters, CFG_ADDR among them, never change. -/
def Obligations.InitedIsSticky : Prop :=
  ∀ s t : State, step s = .next t →
    (s.inited = true → t.inited = false → s.env.now + 1 ∈ s.env.rstTicks) ∧ t.par = s.par ∧ t.cfgAddr = s.cfgAddr

/-- 20_memory R61, R66, 44_command_classes R222, 30_encoding R105: every request on the I2C port is one of those the
rules list. -/
def Obligations.RequestsAreLegal : Prop :=
  ∀ s t : State, StateOk s → step s = .next t → ∀ r ∈ t.i2cReq, LegalRequest s.par r

/-- 42_pwm_driver R189, 70_reset_and_hazards R272: the prescale register is written only right after a write of the mode
register with the sleep bit set that met no error: in the same tick, or as the outstanding transaction whose answer
arrives in this tick. -/
def Obligations.PrescaleWriteFollowsSleep : Prop :=
  ∀ (s t : State) (pre post : List I2cRequest) (r : I2cRequest), StateOk s → step s = .next t →
    t.i2cReq = pre ++ r :: post → IsPrescaleWrite s.par r →
    (∃ pre' q, pre = pre' ++ [q] ∧ IsSleepWrite s.par q) ∨
    (pre = [] ∧ s.phase = .i2cWait ∧ ∃ i body x, decode s.cmd = .ok i ∧ pwmBody s.par i = some body ∧
      s.lastAction body = some .writeSleep ∧ s.env.xfer = some x ∧ x.err = false)

/-- 10_state R22, R27, R33, 93_implementation_defined U8: no behaviour depends on what is not architectural: two states
that differ only there step to states that differ only there, with the same outputs. Which leftovers a busy block still uses
is read off the model's sequencer (log 9, log 10). -/
def Obligations.LeftoversNeverShow : Prop :=
  ∀ s t s' : State, StateOk s → StateOk t → s.scrub = t.scrub → step s = .next s' →
    ∃ t', step t = .next t' ∧ s'.scrub = t'.scrub ∧ s'.rsp = t'.rsp ∧ s'.i2cReq = t'.i2cReq ∧ s'.sdOe = t'.sdOe ∧
      s'.sdPu = t'.sdPu ∧ s'.busy = t'.busy
end

