-- ==== Sys2Proof/Laws/Decode.lean ====
section
/-! SUPPORT. The fields of a packed command word, and a row of the opcode table read field by field. -/

namespace Sys2Proof

/-! ## Packing and unpacking (30_encoding R91) -/

@[simp] theorem packFields_op (o : Byte) (a b c : Half) : CmdWord.op (packFields o a b c) = o := by
  apply BitVec.eq_of_getLsbD_eq
  intro i hi
  simp only [CmdWord.op, packFields, BitVec.getLsbD_extractLsb', BitVec.getLsbD_append, hi, decide_true, Bool.true_and]
  repeat (split <;> try omega)
  congr 1; omega

@[simp] theorem packFields_z (o : Byte) (a b c : Half) : CmdWord.z (packFields o a b c) = 0 := by
  apply BitVec.eq_of_getLsbD_eq
  intro i hi
  simp only [CmdWord.z, packFields, BitVec.getLsbD_extractLsb', BitVec.getLsbD_append, hi, decide_true, Bool.true_and]
  repeat (split <;> try omega)
  all_goals first | rfl | (congr 1; omega)

@[simp] theorem packFields_a (o : Byte) (a b c : Half) : CmdWord.a (packFields o a b c) = a := by
  apply BitVec.eq_of_getLsbD_eq
  intro i hi
  simp only [CmdWord.a, packFields, BitVec.getLsbD_extractLsb', BitVec.getLsbD_append, hi, decide_true, Bool.true_and]
  repeat (split <;> try omega)
  congr 1; omega

@[simp] theorem packFields_b (o : Byte) (a b c : Half) : CmdWord.b (packFields o a b c) = b := by
  apply BitVec.eq_of_getLsbD_eq
  intro i hi
  simp only [CmdWord.b, packFields, BitVec.getLsbD_extractLsb', BitVec.getLsbD_append, hi, decide_true, Bool.true_and]
  repeat (split <;> try omega)
  congr 1; omega

@[simp] theorem packFields_c (o : Byte) (a b c : Half) : CmdWord.c (packFields o a b c) = c := by
  apply BitVec.eq_of_getLsbD_eq
  intro i hi
  simp only [CmdWord.c, packFields, BitVec.getLsbD_extractLsb', BitVec.getLsbD_append, hi, decide_true, Bool.true_and]
  repeat (split <;> try omega)
  congr 1; omega

/-- The five fields of R91 side by side, `z` among them. -/
def fieldWord (o z : Byte) (a b c : Half) : CmdWord := o ++ z ++ a ++ b ++ c

/-- A word is its five fields. -/
theorem fieldWord_eta (w : CmdWord) :
    fieldWord (CmdWord.op w) (CmdWord.z w) (CmdWord.a w) (CmdWord.b w) (CmdWord.c w) = w := by
  apply BitVec.eq_of_getLsbD_eq
  intro i hi
  simp only [fieldWord, CmdWord.op, CmdWord.z, CmdWord.a, CmdWord.b, CmdWord.c, BitVec.getLsbD_append,
    BitVec.getLsbD_extractLsb']
  repeat' split
  all_goals (rw [decide_eq_true (by omega), Bool.true_and]; congr 1; omega)

/-- A word whose field `z` is 0 is its packed fields. -/
theorem packFields_eta {w : CmdWord} (hz : CmdWord.z w = 0) :
    packFields (CmdWord.op w) (CmdWord.a w) (CmdWord.b w) (CmdWord.c w) = w := by
  conv_rhs => rw [← fieldWord_eta w, hz]
  rfl

/-! ## Masks, field by field (R92) -/

theorem append_and_append {m n : Nat} (a c : BitVec m) (b d : BitVec n) :
    (a ++ b) &&& (c ++ d) = (a &&& c) ++ (b &&& d) := by
  apply BitVec.eq_of_getLsbD_eq
  intro i hi
  simp only [BitVec.getLsbD_and, BitVec.getLsbD_append]
  split <;> rfl

theorem append_inj' {m n : Nat} {a c : BitVec m} {b d : BitVec n} (h : a ++ b = c ++ d) : a = c ∧ b = d := by
  have h' := fun i => congrArg (fun x => BitVec.getLsbD x i) h
  simp only [BitVec.getLsbD_append] at h'
  constructor
  · apply BitVec.eq_of_getLsbD_eq
    intro i hi
    simpa using h' (n + i)
  · apply BitVec.eq_of_getLsbD_eq
    intro i hi
    simpa [hi] using h' i

theorem fieldWord_and (o z : Byte) (a b c : Half) (o' z' : Byte) (a' b' c' : Half) :
    fieldWord o z a b c &&& fieldWord o' z' a' b' c' =
      fieldWord (o &&& o') (z &&& z') (a &&& a') (b &&& b') (c &&& c') :=
  (append_and_append (o ++ z ++ a ++ b) (o' ++ z' ++ a' ++ b') c c').trans
    (by rw [append_and_append, append_and_append, append_and_append]; rfl)

theorem fieldWord_inj {o z : Byte} {a b c : Half} {o' z' : Byte} {a' b' c' : Half} :
    fieldWord o z a b c = fieldWord o' z' a' b' c' ↔ o = o' ∧ z = z' ∧ a = a' ∧ b = b' ∧ c = c' := by
  constructor
  · intro h
    obtain ⟨h, h5⟩ := append_inj' h
    obtain ⟨h, h4⟩ := append_inj' h
    obtain ⟨h, h3⟩ := append_inj' h
    obtain ⟨h1, h2⟩ := append_inj' h
    exact ⟨h1, h2, h3, h4, h5⟩
  · rintro ⟨rfl, rfl, rfl, rfl, rfl⟩
    rfl

/-- A word selects a row iff its masked fields are the row's. -/
theorem selects_fieldWord (w : CmdWord) (m : String) (o' z' : Byte) (a' b' c' : Half) (op : Byte) :
    OpcodeRow.selects ⟨m, fieldWord o' z' a' b' c', fieldWord op 0 0 0 0⟩ w =
      decide (CmdWord.op w &&& o' = op ∧ CmdWord.z w &&& z' = 0 ∧ CmdWord.a w &&& a' = 0 ∧ CmdWord.b w &&& b' = 0 ∧
        CmdWord.c w &&& c' = 0) := by
  unfold OpcodeRow.selects
  conv_lhs => rw [← fieldWord_eta w]
  rw [fieldWord_and, Bool.eq_iff_iff, beq_iff_eq, fieldWord_inj, decide_eq_true_iff]

/-- The rows of R92, every mask and match cut into fields: a field is checked whole or not at all. -/
theorem opcodeRows_fields : opcodeRows =
    [⟨"QUERY", fieldWord (.allOnes 8) (.allOnes 8) 0 0 (.allOnes 16), fieldWord 0x01 0 0 0 0⟩,
     ⟨"RDREG", fieldWord (.allOnes 8) (.allOnes 8) 0 (.allOnes 16) (.allOnes 16), fieldWord 0x02 0 0 0 0⟩,
     ⟨"INIT", fieldWord (.allOnes 8) (.allOnes 8) (.allOnes 16) (.allOnes 16) (.allOnes 16), fieldWord 0x10 0 0 0 0⟩,
     ⟨"SETFREQ", fieldWord (.allOnes 8) (.allOnes 8) 0 (.allOnes 16) (.allOnes 16), fieldWord 0x11 0 0 0 0⟩,
     ⟨"SETDUTY", fieldWord (.allOnes 8) (.allOnes 8) 0 0 0, fieldWord 0x12 0 0 0 0⟩,
     ⟨"SERVO", fieldWord (.allOnes 8) (.allOnes 8) 0 0 (.allOnes 16), fieldWord 0x13 0 0 0 0⟩,
     ⟨"MOTOR", fieldWord (.allOnes 8) (.allOnes 8) 0 0 (.allOnes 16), fieldWord 0x14 0 0 0 0⟩] := by decide

end Sys2Proof
end

