-- ==== Sys2Proof/Laws/State.lean ====
section
/-! SUPPORT. One lemma per field per update of the state, each true by definition, so that no proof unfolds a record
update. -/

namespace Sys2Proof.Machine

section
variable (s : State)

/-! ## nextTick -/

@[simp] theorem State.nextTick_st : (s.nextTick).st = s.st := rfl
@[simp] theorem State.nextTick_phase : (s.nextTick).phase = s.phase := rfl
@[simp] theorem State.nextTick_bitIdx : (s.nextTick).bitIdx = s.bitIdx := rfl
@[simp] theorem State.nextTick_tmr : (s.nextTick).tmr = s.tmr := rfl
@[simp] theorem State.nextTick_seq : (s.nextTick).seq = s.seq := rfl
@[simp] theorem State.nextTick_txn : (s.nextTick).txn = s.txn := rfl
@[simp] theorem State.nextTick_cmd : (s.nextTick).cmd = s.cmd := rfl
@[simp] theorem State.nextTick_frame : (s.nextTick).frame = s.frame := rfl
@[simp] theorem State.nextTick_rb : (s.nextTick).rb = s.rb := rfl
@[simp] theorem State.nextTick_hum : (s.nextTick).hum = s.hum := rfl
@[simp] theorem State.nextTick_temp : (s.nextTick).temp = s.temp := rfl
@[simp] theorem State.nextTick_valid : (s.nextTick).valid = s.valid := rfl
@[simp] theorem State.nextTick_inited : (s.nextTick).inited = s.inited := rfl
@[simp] theorem State.nextTick_cfgFreq : (s.nextTick).cfgFreq = s.cfgFreq := rfl
@[simp] theorem State.nextTick_cfgPrescale : (s.nextTick).cfgPrescale = s.cfgPrescale := rfl
@[simp] theorem State.nextTick_oldMode : (s.nextTick).oldMode = s.oldMode := rfl
@[simp] theorem State.nextTick_sdOe : (s.nextTick).sdOe = s.sdOe := rfl
@[simp] theorem State.nextTick_sdPu : (s.nextTick).sdPu = s.sdPu := rfl
@[simp] theorem State.nextTick_rsp : (s.nextTick).rsp = none := rfl
@[simp] theorem State.nextTick_i2cReq : (s.nextTick).i2cReq = [] := rfl
@[simp] theorem State.nextTick_par : (s.nextTick).par = s.par := rfl
@[simp] theorem State.nextTick_env : (s.nextTick).env = { s.env with now := s.env.now + 1 } := rfl

/-! ## restartTimer -/

@[simp] theorem State.restartTimer_st : (s.restartTimer).st = s.st := rfl
@[simp] theorem State.restartTimer_phase : (s.restartTimer).phase = s.phase := rfl
@[simp] theorem State.restartTimer_bitIdx : (s.restartTimer).bitIdx = s.bitIdx := rfl
@[simp] theorem State.restartTimer_tmr : (s.restartTimer).tmr = 0 := rfl
@[simp] theorem State.restartTimer_seq : (s.restartTimer).seq = s.seq := rfl
@[simp] theorem State.restartTimer_txn : (s.restartTimer).txn = s.txn := rfl
@[simp] theorem State.restartTimer_cmd : (s.restartTimer).cmd = s.cmd := rfl
@[simp] theorem State.restartTimer_frame : (s.restartTimer).frame = s.frame := rfl
@[simp] theorem State.restartTimer_rb : (s.restartTimer).rb = s.rb := rfl
@[simp] theorem State.restartTimer_hum : (s.restartTimer).hum = s.hum := rfl
@[simp] theorem State.restartTimer_temp : (s.restartTimer).temp = s.temp := rfl
@[simp] theorem State.restartTimer_valid : (s.restartTimer).valid = s.valid := rfl
@[simp] theorem State.restartTimer_inited : (s.restartTimer).inited = s.inited := rfl
@[simp] theorem State.restartTimer_cfgFreq : (s.restartTimer).cfgFreq = s.cfgFreq := rfl
@[simp] theorem State.restartTimer_cfgPrescale : (s.restartTimer).cfgPrescale = s.cfgPrescale := rfl
@[simp] theorem State.restartTimer_oldMode : (s.restartTimer).oldMode = s.oldMode := rfl
@[simp] theorem State.restartTimer_sdOe : (s.restartTimer).sdOe = s.sdOe := rfl
@[simp] theorem State.restartTimer_sdPu : (s.restartTimer).sdPu = s.sdPu := rfl
@[simp] theorem State.restartTimer_rsp : (s.restartTimer).rsp = s.rsp := rfl
@[simp] theorem State.restartTimer_i2cReq : (s.restartTimer).i2cReq = s.i2cReq := rfl
@[simp] theorem State.restartTimer_par : (s.restartTimer).par = s.par := rfl
@[simp] theorem State.restartTimer_env : (s.restartTimer).env = s.env := rfl

/-! ## countTick -/

@[simp] theorem State.countTick_st : (s.countTick).st = s.st := rfl
@[simp] theorem State.countTick_phase : (s.countTick).phase = s.phase := rfl
@[simp] theorem State.countTick_bitIdx : (s.countTick).bitIdx = s.bitIdx := rfl
@[simp] theorem State.countTick_tmr : (s.countTick).tmr = s.tmr + 1 := rfl
@[simp] theorem State.countTick_seq : (s.countTick).seq = s.seq := rfl
@[simp] theorem State.countTick_txn : (s.countTick).txn = s.txn := rfl
@[simp] theorem State.countTick_cmd : (s.countTick).cmd = s.cmd := rfl
@[simp] theorem State.countTick_frame : (s.countTick).frame = s.frame := rfl
@[simp] theorem State.countTick_rb : (s.countTick).rb = s.rb := rfl
@[simp] theorem State.countTick_hum : (s.countTick).hum = s.hum := rfl
@[simp] theorem State.countTick_temp : (s.countTick).temp = s.temp := rfl
@[simp] theorem State.countTick_valid : (s.countTick).valid = s.valid := rfl
@[simp] theorem State.countTick_inited : (s.countTick).inited = s.inited := rfl
@[simp] theorem State.countTick_cfgFreq : (s.countTick).cfgFreq = s.cfgFreq := rfl
@[simp] theorem State.countTick_cfgPrescale : (s.countTick).cfgPrescale = s.cfgPrescale := rfl
@[simp] theorem State.countTick_oldMode : (s.countTick).oldMode = s.oldMode := rfl
@[simp] theorem State.countTick_sdOe : (s.countTick).sdOe = s.sdOe := rfl
@[simp] theorem State.countTick_sdPu : (s.countTick).sdPu = s.sdPu := rfl
@[simp] theorem State.countTick_rsp : (s.countTick).rsp = s.rsp := rfl
@[simp] theorem State.countTick_i2cReq : (s.countTick).i2cReq = s.i2cReq := rfl
@[simp] theorem State.countTick_par : (s.countTick).par = s.par := rfl
@[simp] theorem State.countTick_env : (s.countTick).env = s.env := rfl

/-! ## endCommand -/

@[simp] theorem State.endCommand_st (x : Status) (v : Word32) : (s.endCommand x v).st = .idle := rfl
@[simp] theorem State.endCommand_phase (x : Status) (v : Word32) : (s.endCommand x v).phase = .none := rfl
@[simp] theorem State.endCommand_bitIdx (x : Status) (v : Word32) : (s.endCommand x v).bitIdx = s.bitIdx := rfl
@[simp] theorem State.endCommand_tmr (x : Status) (v : Word32) : (s.endCommand x v).tmr = s.tmr := rfl
@[simp] theorem State.endCommand_seq (x : Status) (v : Word32) : (s.endCommand x v).seq = s.seq := rfl
@[simp] theorem State.endCommand_txn (x : Status) (v : Word32) : (s.endCommand x v).txn = s.txn := rfl
@[simp] theorem State.endCommand_cmd (x : Status) (v : Word32) : (s.endCommand x v).cmd = s.cmd := rfl
@[simp] theorem State.endCommand_frame (x : Status) (v : Word32) : (s.endCommand x v).frame = s.frame := rfl
@[simp] theorem State.endCommand_rb (x : Status) (v : Word32) : (s.endCommand x v).rb = s.rb := rfl
@[simp] theorem State.endCommand_hum (x : Status) (v : Word32) : (s.endCommand x v).hum = s.hum := rfl
@[simp] theorem State.endCommand_temp (x : Status) (v : Word32) : (s.endCommand x v).temp = s.temp := rfl
@[simp] theorem State.endCommand_valid (x : Status) (v : Word32) : (s.endCommand x v).valid = s.valid := rfl
@[simp] theorem State.endCommand_inited (x : Status) (v : Word32) : (s.endCommand x v).inited = s.inited := rfl
@[simp] theorem State.endCommand_cfgFreq (x : Status) (v : Word32) : (s.endCommand x v).cfgFreq = s.cfgFreq := rfl
@[simp] theorem State.endCommand_cfgPrescale (x : Status) (v : Word32) : (s.endCommand x v).cfgPrescale = s.cfgPrescale := rfl
@[simp] theorem State.endCommand_oldMode (x : Status) (v : Word32) : (s.endCommand x v).oldMode = s.oldMode := rfl
@[simp] theorem State.endCommand_sdOe (x : Status) (v : Word32) : (s.endCommand x v).sdOe = s.sdOe := rfl
@[simp] theorem State.endCommand_sdPu (x : Status) (v : Word32) : (s.endCommand x v).sdPu = s.sdPu := rfl
@[simp] theorem State.endCommand_rsp (x : Status) (v : Word32) : (s.endCommand x v).rsp = some (responseWord x v) := rfl
@[simp] theorem State.endCommand_i2cReq (x : Status) (v : Word32) : (s.endCommand x v).i2cReq = s.i2cReq := rfl
@[simp] theorem State.endCommand_par (x : Status) (v : Word32) : (s.endCommand x v).par = s.par := rfl
@[simp] theorem State.endCommand_env (x : Status) (v : Word32) : (s.endCommand x v).env = s.env := rfl

/-! ## drive0 -/

@[simp] theorem State.drive0_st (L : Nat) : (s.drive0 L).st = s.st := rfl
@[simp] theorem State.drive0_phase (L : Nat) : (s.drive0 L).phase = s.phase := rfl
@[simp] theorem State.drive0_bitIdx (L : Nat) : (s.drive0 L).bitIdx = s.bitIdx := rfl
@[simp] theorem State.drive0_tmr (L : Nat) : (s.drive0 L).tmr = s.tmr := rfl
@[simp] theorem State.drive0_seq (L : Nat) : (s.drive0 L).seq = s.seq := rfl
@[simp] theorem State.drive0_txn (L : Nat) : (s.drive0 L).txn = s.txn := rfl
@[simp] theorem State.drive0_cmd (L : Nat) : (s.drive0 L).cmd = s.cmd := rfl
@[simp] theorem State.drive0_frame (L : Nat) : (s.drive0 L).frame = s.frame := rfl
@[simp] theorem State.drive0_rb (L : Nat) : (s.drive0 L).rb = s.rb := rfl
@[simp] theorem State.drive0_hum (L : Nat) : (s.drive0 L).hum = s.hum := rfl
@[simp] theorem State.drive0_temp (L : Nat) : (s.drive0 L).temp = s.temp := rfl
@[simp] theorem State.drive0_valid (L : Nat) : (s.drive0 L).valid = s.valid := rfl
@[simp] theorem State.drive0_inited (L : Nat) : (s.drive0 L).inited = s.inited := rfl
@[simp] theorem State.drive0_cfgFreq (L : Nat) : (s.drive0 L).cfgFreq = s.cfgFreq := rfl
@[simp] theorem State.drive0_cfgPrescale (L : Nat) : (s.drive0 L).cfgPrescale = s.cfgPrescale := rfl
@[simp] theorem State.drive0_oldMode (L : Nat) : (s.drive0 L).oldMode = s.oldMode := rfl
@[simp] theorem State.drive0_sdOe (L : Nat) : (s.drive0 L).sdOe = insertLine L s.sdOe := rfl
@[simp] theorem State.drive0_sdPu (L : Nat) : (s.drive0 L).sdPu = s.sdPu := rfl
@[simp] theorem State.drive0_rsp (L : Nat) : (s.drive0 L).rsp = s.rsp := rfl
@[simp] theorem State.drive0_i2cReq (L : Nat) : (s.drive0 L).i2cReq = s.i2cReq := rfl
@[simp] theorem State.drive0_par (L : Nat) : (s.drive0 L).par = s.par := rfl
@[simp] theorem State.drive0_env (L : Nat) : (s.drive0 L).env = s.env := rfl

/-! ## release -/

@[simp] theorem State.release_st (L : Nat) : (s.release L).st = s.st := rfl
@[simp] theorem State.release_phase (L : Nat) : (s.release L).phase = s.phase := rfl
@[simp] theorem State.release_bitIdx (L : Nat) : (s.release L).bitIdx = s.bitIdx := rfl
@[simp] theorem State.release_tmr (L : Nat) : (s.release L).tmr = s.tmr := rfl
@[simp] theorem State.release_seq (L : Nat) : (s.release L).seq = s.seq := rfl
@[simp] theorem State.release_txn (L : Nat) : (s.release L).txn = s.txn := rfl
@[simp] theorem State.release_cmd (L : Nat) : (s.release L).cmd = s.cmd := rfl
@[simp] theorem State.release_frame (L : Nat) : (s.release L).frame = s.frame := rfl
@[simp] theorem State.release_rb (L : Nat) : (s.release L).rb = s.rb := rfl
@[simp] theorem State.release_hum (L : Nat) : (s.release L).hum = s.hum := rfl
@[simp] theorem State.release_temp (L : Nat) : (s.release L).temp = s.temp := rfl
@[simp] theorem State.release_valid (L : Nat) : (s.release L).valid = s.valid := rfl
@[simp] theorem State.release_inited (L : Nat) : (s.release L).inited = s.inited := rfl
@[simp] theorem State.release_cfgFreq (L : Nat) : (s.release L).cfgFreq = s.cfgFreq := rfl
@[simp] theorem State.release_cfgPrescale (L : Nat) : (s.release L).cfgPrescale = s.cfgPrescale := rfl
@[simp] theorem State.release_oldMode (L : Nat) : (s.release L).oldMode = s.oldMode := rfl
@[simp] theorem State.release_sdOe (L : Nat) : (s.release L).sdOe = removeLine L s.sdOe := rfl
@[simp] theorem State.release_sdPu (L : Nat) : (s.release L).sdPu = s.sdPu := rfl
@[simp] theorem State.release_rsp (L : Nat) : (s.release L).rsp = s.rsp := rfl
@[simp] theorem State.release_i2cReq (L : Nat) : (s.release L).i2cReq = s.i2cReq := rfl
@[simp] theorem State.release_par (L : Nat) : (s.release L).par = s.par := rfl
@[simp] theorem State.release_env (L : Nat) : (s.release L).env = s.env := rfl

/-! ## clearValid -/

@[simp] theorem State.clearValid_st : (s.clearValid).st = s.st := rfl
@[simp] theorem State.clearValid_phase : (s.clearValid).phase = s.phase := rfl
@[simp] theorem State.clearValid_bitIdx : (s.clearValid).bitIdx = s.bitIdx := rfl
@[simp] theorem State.clearValid_tmr : (s.clearValid).tmr = s.tmr := rfl
@[simp] theorem State.clearValid_seq : (s.clearValid).seq = s.seq := rfl
@[simp] theorem State.clearValid_txn : (s.clearValid).txn = s.txn := rfl
@[simp] theorem State.clearValid_cmd : (s.clearValid).cmd = s.cmd := rfl
@[simp] theorem State.clearValid_frame : (s.clearValid).frame = s.frame := rfl
@[simp] theorem State.clearValid_rb : (s.clearValid).rb = s.rb := rfl
@[simp] theorem State.clearValid_hum : (s.clearValid).hum = s.hum := rfl
@[simp] theorem State.clearValid_temp : (s.clearValid).temp = s.temp := rfl
@[simp] theorem State.clearValid_valid : (s.clearValid).valid = false := rfl
@[simp] theorem State.clearValid_inited : (s.clearValid).inited = s.inited := rfl
@[simp] theorem State.clearValid_cfgFreq : (s.clearValid).cfgFreq = s.cfgFreq := rfl
@[simp] theorem State.clearValid_cfgPrescale : (s.clearValid).cfgPrescale = s.cfgPrescale := rfl
@[simp] theorem State.clearValid_oldMode : (s.clearValid).oldMode = s.oldMode := rfl
@[simp] theorem State.clearValid_sdOe : (s.clearValid).sdOe = s.sdOe := rfl
@[simp] theorem State.clearValid_sdPu : (s.clearValid).sdPu = s.sdPu := rfl
@[simp] theorem State.clearValid_rsp : (s.clearValid).rsp = s.rsp := rfl
@[simp] theorem State.clearValid_i2cReq : (s.clearValid).i2cReq = s.i2cReq := rfl
@[simp] theorem State.clearValid_par : (s.clearValid).par = s.par := rfl
@[simp] theorem State.clearValid_env : (s.clearValid).env = s.env := rfl

/-! ## commitReading -/

@[simp] theorem State.commitReading_st (h t : Int) : (s.commitReading h t).st = s.st := rfl
@[simp] theorem State.commitReading_phase (h t : Int) : (s.commitReading h t).phase = s.phase := rfl
@[simp] theorem State.commitReading_bitIdx (h t : Int) : (s.commitReading h t).bitIdx = s.bitIdx := rfl
@[simp] theorem State.commitReading_tmr (h t : Int) : (s.commitReading h t).tmr = s.tmr := rfl
@[simp] theorem State.commitReading_seq (h t : Int) : (s.commitReading h t).seq = s.seq := rfl
@[simp] theorem State.commitReading_txn (h t : Int) : (s.commitReading h t).txn = s.txn := rfl
@[simp] theorem State.commitReading_cmd (h t : Int) : (s.commitReading h t).cmd = s.cmd := rfl
@[simp] theorem State.commitReading_frame (h t : Int) : (s.commitReading h t).frame = s.frame := rfl
@[simp] theorem State.commitReading_rb (h t : Int) : (s.commitReading h t).rb = s.rb := rfl
@[simp] theorem State.commitReading_hum (h t : Int) : (s.commitReading h t).hum = BitVec.ofInt 32 h := rfl
@[simp] theorem State.commitReading_temp (h t : Int) : (s.commitReading h t).temp = BitVec.ofInt 32 t := rfl
@[simp] theorem State.commitReading_valid (h t : Int) : (s.commitReading h t).valid = true := rfl
@[simp] theorem State.commitReading_inited (h t : Int) : (s.commitReading h t).inited = s.inited := rfl
@[simp] theorem State.commitReading_cfgFreq (h t : Int) : (s.commitReading h t).cfgFreq = s.cfgFreq := rfl
@[simp] theorem State.commitReading_cfgPrescale (h t : Int) : (s.commitReading h t).cfgPrescale = s.cfgPrescale := rfl
@[simp] theorem State.commitReading_oldMode (h t : Int) : (s.commitReading h t).oldMode = s.oldMode := rfl
@[simp] theorem State.commitReading_sdOe (h t : Int) : (s.commitReading h t).sdOe = s.sdOe := rfl
@[simp] theorem State.commitReading_sdPu (h t : Int) : (s.commitReading h t).sdPu = s.sdPu := rfl
@[simp] theorem State.commitReading_rsp (h t : Int) : (s.commitReading h t).rsp = s.rsp := rfl
@[simp] theorem State.commitReading_i2cReq (h t : Int) : (s.commitReading h t).i2cReq = s.i2cReq := rfl
@[simp] theorem State.commitReading_par (h t : Int) : (s.commitReading h t).par = s.par := rfl
@[simp] theorem State.commitReading_env (h t : Int) : (s.commitReading h t).env = s.env := rfl

/-! ## markInited -/

@[simp] theorem State.markInited_st : (s.markInited).st = s.st := rfl
@[simp] theorem State.markInited_phase : (s.markInited).phase = s.phase := rfl
@[simp] theorem State.markInited_bitIdx : (s.markInited).bitIdx = s.bitIdx := rfl
@[simp] theorem State.markInited_tmr : (s.markInited).tmr = s.tmr := rfl
@[simp] theorem State.markInited_seq : (s.markInited).seq = 0 := rfl
@[simp] theorem State.markInited_txn : (s.markInited).txn = s.txn := rfl
@[simp] theorem State.markInited_cmd : (s.markInited).cmd = s.cmd := rfl
@[simp] theorem State.markInited_frame : (s.markInited).frame = s.frame := rfl
@[simp] theorem State.markInited_rb : (s.markInited).rb = s.rb := rfl
@[simp] theorem State.markInited_hum : (s.markInited).hum = s.hum := rfl
@[simp] theorem State.markInited_temp : (s.markInited).temp = s.temp := rfl
@[simp] theorem State.markInited_valid : (s.markInited).valid = s.valid := rfl
@[simp] theorem State.markInited_inited : (s.markInited).inited = true := rfl
@[simp] theorem State.markInited_cfgFreq : (s.markInited).cfgFreq = s.cfgFreq := rfl
@[simp] theorem State.markInited_cfgPrescale : (s.markInited).cfgPrescale = s.cfgPrescale := rfl
@[simp] theorem State.markInited_oldMode : (s.markInited).oldMode = s.oldMode := rfl
@[simp] theorem State.markInited_sdOe : (s.markInited).sdOe = s.sdOe := rfl
@[simp] theorem State.markInited_sdPu : (s.markInited).sdPu = s.sdPu := rfl
@[simp] theorem State.markInited_rsp : (s.markInited).rsp = s.rsp := rfl
@[simp] theorem State.markInited_i2cReq : (s.markInited).i2cReq = s.i2cReq := rfl
@[simp] theorem State.markInited_par : (s.markInited).par = s.par := rfl
@[simp] theorem State.markInited_env : (s.markInited).env = s.env := rfl

/-! ## assembleBytes -/

@[simp] theorem State.assembleBytes_st : (s.assembleBytes).st = .byteAssembly := rfl
@[simp] theorem State.assembleBytes_phase : (s.assembleBytes).phase = .none := rfl
@[simp] theorem State.assembleBytes_bitIdx : (s.assembleBytes).bitIdx = s.bitIdx := rfl
@[simp] theorem State.assembleBytes_tmr : (s.assembleBytes).tmr = s.tmr := rfl
@[simp] theorem State.assembleBytes_seq : (s.assembleBytes).seq = s.seq := rfl
@[simp] theorem State.assembleBytes_txn : (s.assembleBytes).txn = s.txn := rfl
@[simp] theorem State.assembleBytes_cmd : (s.assembleBytes).cmd = s.cmd := rfl
@[simp] theorem State.assembleBytes_frame : (s.assembleBytes).frame = s.frame := rfl
@[simp] theorem State.assembleBytes_rb : (s.assembleBytes).rb = assembleFrame s.frame := rfl
@[simp] theorem State.assembleBytes_hum : (s.assembleBytes).hum = s.hum := rfl
@[simp] theorem State.assembleBytes_temp : (s.assembleBytes).temp = s.temp := rfl
@[simp] theorem State.assembleBytes_valid : (s.assembleBytes).valid = s.valid := rfl
@[simp] theorem State.assembleBytes_inited : (s.assembleBytes).inited = s.inited := rfl
@[simp] theorem State.assembleBytes_cfgFreq : (s.assembleBytes).cfgFreq = s.cfgFreq := rfl
@[simp] theorem State.assembleBytes_cfgPrescale : (s.assembleBytes).cfgPrescale = s.cfgPrescale := rfl
@[simp] theorem State.assembleBytes_oldMode : (s.assembleBytes).oldMode = s.oldMode := rfl
@[simp] theorem State.assembleBytes_sdOe : (s.assembleBytes).sdOe = s.sdOe := rfl
@[simp] theorem State.assembleBytes_sdPu : (s.assembleBytes).sdPu = s.sdPu := rfl
@[simp] theorem State.assembleBytes_rsp : (s.assembleBytes).rsp = s.rsp := rfl
@[simp] theorem State.assembleBytes_i2cReq : (s.assembleBytes).i2cReq = s.i2cReq := rfl
@[simp] theorem State.assembleBytes_par : (s.assembleBytes).par = s.par := rfl
@[simp] theorem State.assembleBytes_env : (s.assembleBytes).env = s.env := rfl

/-! ## takeOffer -/

@[simp] theorem State.takeOffer_st : (s.takeOffer).st = s.st := rfl
@[simp] theorem State.takeOffer_phase : (s.takeOffer).phase = s.phase := rfl
@[simp] theorem State.takeOffer_bitIdx : (s.takeOffer).bitIdx = s.bitIdx := rfl
@[simp] theorem State.takeOffer_tmr : (s.takeOffer).tmr = s.tmr := rfl
@[simp] theorem State.takeOffer_seq : (s.takeOffer).seq = s.seq := rfl
@[simp] theorem State.takeOffer_txn : (s.takeOffer).txn = s.txn := rfl
@[simp] theorem State.takeOffer_cmd : (s.takeOffer).cmd = s.cmd := rfl
@[simp] theorem State.takeOffer_frame : (s.takeOffer).frame = s.frame := rfl
@[simp] theorem State.takeOffer_rb : (s.takeOffer).rb = s.rb := rfl
@[simp] theorem State.takeOffer_hum : (s.takeOffer).hum = s.hum := rfl
@[simp] theorem State.takeOffer_temp : (s.takeOffer).temp = s.temp := rfl
@[simp] theorem State.takeOffer_valid : (s.takeOffer).valid = s.valid := rfl
@[simp] theorem State.takeOffer_inited : (s.takeOffer).inited = s.inited := rfl
@[simp] theorem State.takeOffer_cfgFreq : (s.takeOffer).cfgFreq = s.cfgFreq := rfl
@[simp] theorem State.takeOffer_cfgPrescale : (s.takeOffer).cfgPrescale = s.cfgPrescale := rfl
@[simp] theorem State.takeOffer_oldMode : (s.takeOffer).oldMode = s.oldMode := rfl
@[simp] theorem State.takeOffer_sdOe : (s.takeOffer).sdOe = s.sdOe := rfl
@[simp] theorem State.takeOffer_sdPu : (s.takeOffer).sdPu = s.sdPu := rfl
@[simp] theorem State.takeOffer_rsp : (s.takeOffer).rsp = s.rsp := rfl
@[simp] theorem State.takeOffer_i2cReq : (s.takeOffer).i2cReq = s.i2cReq := rfl
@[simp] theorem State.takeOffer_par : (s.takeOffer).par = s.par := rfl
@[simp] theorem State.takeOffer_env : (s.takeOffer).env = { s.env with offers := s.env.offers.tail } := rfl

/-! ## latch -/

@[simp] theorem State.latch_st (w : CmdWord) : (s.latch w).st = s.st := rfl
@[simp] theorem State.latch_phase (w : CmdWord) : (s.latch w).phase = s.phase := rfl
@[simp] theorem State.latch_bitIdx (w : CmdWord) : (s.latch w).bitIdx = s.bitIdx := rfl
@[simp] theorem State.latch_tmr (w : CmdWord) : (s.latch w).tmr = s.tmr := rfl
@[simp] theorem State.latch_seq (w : CmdWord) : (s.latch w).seq = s.seq := rfl
@[simp] theorem State.latch_txn (w : CmdWord) : (s.latch w).txn = s.txn := rfl
@[simp] theorem State.latch_cmd (w : CmdWord) : (s.latch w).cmd = w := rfl
@[simp] theorem State.latch_frame (w : CmdWord) : (s.latch w).frame = s.frame := rfl
@[simp] theorem State.latch_rb (w : CmdWord) : (s.latch w).rb = s.rb := rfl
@[simp] theorem State.latch_hum (w : CmdWord) : (s.latch w).hum = s.hum := rfl
@[simp] theorem State.latch_temp (w : CmdWord) : (s.latch w).temp = s.temp := rfl
@[simp] theorem State.latch_valid (w : CmdWord) : (s.latch w).valid = s.valid := rfl
@[simp] theorem State.latch_inited (w : CmdWord) : (s.latch w).inited = s.inited := rfl
@[simp] theorem State.latch_cfgFreq (w : CmdWord) : (s.latch w).cfgFreq = s.cfgFreq := rfl
@[simp] theorem State.latch_cfgPrescale (w : CmdWord) : (s.latch w).cfgPrescale = s.cfgPrescale := rfl
@[simp] theorem State.latch_oldMode (w : CmdWord) : (s.latch w).oldMode = s.oldMode := rfl
@[simp] theorem State.latch_sdOe (w : CmdWord) : (s.latch w).sdOe = s.sdOe := rfl
@[simp] theorem State.latch_sdPu (w : CmdWord) : (s.latch w).sdPu = s.sdPu := rfl
@[simp] theorem State.latch_rsp (w : CmdWord) : (s.latch w).rsp = s.rsp := rfl
@[simp] theorem State.latch_i2cReq (w : CmdWord) : (s.latch w).i2cReq = s.i2cReq := rfl
@[simp] theorem State.latch_par (w : CmdWord) : (s.latch w).par = s.par := rfl
@[simp] theorem State.latch_env (w : CmdWord) : (s.latch w).env = { s.env with offers := s.env.offers.tail } := rfl

end

end Sys2Proof.Machine
end

