-- ==== Sys2Proof/Laws/Ops.lean ====
section
/-! SUPPORT. One lemma for each thing a shared operation can do: the timer, a look, a wait, a delay, a line, a
transaction, a run of actions. Proofs about commands cite these and do not unfold the operations. -/

namespace Sys2Proof.Config

/-! ## The parameters (00_scope R8, 20_memory R70) -/

/-- The deadline of a wait fits TMR (10_state R24). -/
theorem Params.edgeTimeout_bounds (p : Params) : 1 ≤ p.edgeTimeout ∧ p.edgeTimeout < 2 ^ 32 := by
  have h := p.valid
  simp only [RawParams.ok, Bool.and_eq_true, decide_eq_true_eq] at h
  exact ⟨h.1.1.1.1.1.1.1.1.1.1, h.1.1.1.1.1.1.1.1.1.2⟩

/-- The channel registers fit a byte address (20_memory R70). -/
theorem Params.chBase_bound (p : Params) : p.regChBase.toNat + 63 ≤ 255 := by
  have h := p.valid
  simp only [RawParams.ok, Bool.and_eq_true, decide_eq_true_eq] at h
  exact h.1.1.1.1.1.1.2

/-- The register regions are disjoint (20_memory R70). -/
theorem Params.regions_disjoint (p : Params) :
    p.regMode ≠ p.regPrescale ∧ p.isChannelReg p.regMode = false ∧ p.isChannelReg p.regPrescale = false := by
  have h := p.valid
  simp only [RawParams.ok, Bool.and_eq_true, decide_eq_true_eq, bne_iff_ne, Bool.not_eq_true'] at h
  exact ⟨h.1.1.1.1.1.2, h.1.1.1.1.2, h.1.1.1.2⟩

/-- The motors' channel pairs exist (43_actuator_mapping R216). -/
theorem Params.maxMotor_bounds (p : Params) : 1 ≤ p.maxMotor ∧ p.maxMotor ≤ 8 := by
  have h := p.valid
  simp only [RawParams.ok, Bool.and_eq_true, decide_eq_true_eq] at h
  exact ⟨h.1.1.2, h.1.2⟩

/-- The speed scale is at least 1 (00_scope R8). -/
theorem Params.speedScale_pos (p : Params) : 1 ≤ p.speedScale := by
  have h := p.valid
  simp only [RawParams.ok, Bool.and_eq_true, decide_eq_true_eq] at h
  exact h.2

end Sys2Proof.Config

namespace Sys2Proof.Machine

open Sys2Proof.Config

/-! ## The timer -/

/-- Counting a tick adds one, short of the timer's width. -/
theorem State.countTick_toNat {s : State} (h : s.tmr.toNat + 1 < 2 ^ 32) :
    s.countTick.tmr.toNat = s.tmr.toNat + 1 := by
  simp only [State.countTick_tmr, BitVec.toNat_add]
  exact Nat.mod_eq_of_lt h

/-- A delay that is not over counts the tick. -/
theorem State.delayTick_running {n : Nat} {next : State → State} {s : State} (h : s.tmr.toNat + 1 < n)
    (hn : n < 2 ^ 32) : s.delayTick n next = s.countTick := by
  unfold State.delayTick
  simp only [State.countTick_toNat (show s.tmr.toNat + 1 < 2 ^ 32 by omega)]
  exact if_neg (by omega)

/-- A delay that is over lets the next primitive act at this tick. -/
theorem State.delayTick_over {n : Nat} {next : State → State} {s : State} (h : s.tmr.toNat + 1 = n)
    (hn : n < 2 ^ 32) : s.delayTick n next = next s.countTick := by
  unfold State.delayTick
  simp only [State.countTick_toNat (show s.tmr.toNat + 1 < 2 ^ 32 by omega)]
  exact if_pos (by omega)

/-- Whatever the timer holds, a delay counts the tick or hands over. -/
theorem State.delayTick_cases (n : Nat) (next : State → State) (s : State) :
    s.delayTick n next = s.countTick ∨ s.delayTick n next = next s.countTick := by
  unfold State.delayTick
  dsimp only
  split
  · exact .inr rfl
  · exact .inl rfl

/-! ## Looks and waits -/

/-- What a look samples depends on the driven lines and on the environment only. -/
theorem State.sample_congr {s t : State} (L : Nat) (ho : t.sdOe = s.sdOe) (he : t.env = s.env) :
    t.sample L = s.sample L := by
  unfold State.sample State.sdOeAt
  rw [ho, he]

@[simp] theorem State.sample_countTick (s : State) (L : Nat) : s.countTick.sample L = s.sample L := rfl

@[simp] theorem State.sample_restartTimer (s : State) (L : Nat) : s.restartTimer.sample L = s.sample L := rfl

/-- A look that sees the level hands over. -/
theorem State.look_pass {L : Nat} {v : Bool} {next : State → State} {s : State} (h : s.sample L = v) :
    s.look L v next = next s := if_pos h

/-- A look that does not see the level changes nothing. -/
theorem State.look_miss {L : Nat} {v : Bool} {next : State → State} {s : State} (h : s.sample L ≠ v) :
    s.look L v next = s := if_neg h

/-- A wait whose looks are used up times out. -/
theorem State.waitTick_expired {L site : Nat} {v : Bool} {next : State → State} {s : State}
    (h : s.tmr.toNat + 1 = s.par.edgeTimeout) :
    s.waitTick L v site next = s.countTick.raiseTimeout site := by
  have hp := (Params.edgeTimeout_bounds s.par).2
  unfold State.waitTick
  simp only [State.countTick_toNat (show s.tmr.toNat + 1 < 2 ^ 32 by omega)]
  exact if_pos (by rw [State.countTick_par]; omega)

/-- A wait with looks left looks. -/
theorem State.waitTick_looks {L site : Nat} {v : Bool} {next : State → State} {s : State}
    (h : s.tmr.toNat + 1 < s.par.edgeTimeout) :
    s.waitTick L v site next = s.countTick.look L v next := by
  have hp := (Params.edgeTimeout_bounds s.par).2
  unfold State.waitTick
  simp only [State.countTick_toNat (show s.tmr.toNat + 1 < 2 ^ 32 by omega)]
  exact if_neg (by rw [State.countTick_par]; omega)

/-- Whatever the timer holds, a wait times out, counts the tick, or hands over. -/
theorem State.waitTick_cases (L site : Nat) (v : Bool) (next : State → State) (s : State) :
    s.waitTick L v site next = s.countTick.raiseTimeout site ∨ s.waitTick L v site next = s.countTick ∨
      (s.waitTick L v site next = next s.countTick ∧ s.sample L = v) := by
  unfold State.waitTick State.look
  dsimp only
  split
  · exact .inl rfl
  · split
    · rename_i h
      exact .inr (.inr ⟨rfl, by rw [← h]; exact (State.sample_congr L rfl rfl).symm⟩)
    · exact .inr (.inl rfl)

/-! ## Lines -/

theorem mem_insertLine {L M : Nat} {xs : List Nat} : M ∈ insertLine L xs ↔ M = L ∨ M ∈ xs := by
  induction xs with
  | nil => simp [insertLine]
  | cons x xs ih =>
    simp only [insertLine]
    split
    · simp
    · split
      · simp_all
      · simp only [List.mem_cons, ih]
        tauto

theorem mem_removeLine {L M : Nat} {xs : List Nat} : M ∈ removeLine L xs ↔ M ∈ xs ∧ M ≠ L := by
  simp [removeLine]

/-- Putting a line in keeps the list rising. -/
theorem insertLine_rising {L : Nat} {xs : List Nat} (h : xs.Pairwise (· < ·)) : (insertLine L xs).Pairwise (· < ·) := by
  induction xs with
  | nil => simp [insertLine]
  | cons x xs ih =>
    rw [List.pairwise_cons] at h
    simp only [insertLine]
    split
    · rename_i hl
      refine List.pairwise_cons.2 ⟨fun y hy => ?_, List.pairwise_cons.2 h⟩
      rcases List.mem_cons.1 hy with rfl | hy
      · exact hl
      · exact lt_trans hl (h.1 y hy)
    · split
      · exact List.pairwise_cons.2 h
      · refine List.pairwise_cons.2 ⟨fun y hy => ?_, ih h.2⟩
        rcases mem_insertLine.1 hy with rfl | hy
        · omega
        · exact h.1 y hy

@[simp] theorem insertLine_nil (L : Nat) : insertLine L [] = [L] := rfl

@[simp] theorem removeLine_self (L : Nat) : removeLine L [L] = [] := by simp [removeLine]

theorem State.drive0_sdOeAt (s : State) (L M : Nat) : (s.drive0 L).sdOeAt M = (M == L || s.sdOeAt M) := by
  rw [Bool.eq_iff_iff]
  simp [State.sdOeAt, mem_insertLine]

theorem State.release_sdOeAt (s : State) (L M : Nat) : (s.release L).sdOeAt M = (s.sdOeAt M && M != L) := by
  rw [Bool.eq_iff_iff]
  simp [State.sdOeAt, mem_removeLine]

theorem State.enablePullup_sdPuAt (s : State) (L M : Nat) :
    (s.enablePullup L).sdPuAt M = (s.sdPuAt M || (s.par.pullupEn && M == L)) := by
  rw [Bool.eq_iff_iff]
  unfold State.enablePullup
  split
  · simp_all [State.sdPuAt, mem_insertLine, or_comm]
  · simp_all [State.sdPuAt]

/-- Enabling the pull-up writes SD_PU only. -/
theorem State.enablePullup_eq (s : State) (L : Nat) :
    s.enablePullup L = { s with sdPu := (s.enablePullup L).sdPu } := by
  unfold State.enablePullup
  split <;> rfl

/-! ## Transactions -/

/-- All an arriving response can do: end the command with TransportError, or go on, with OLDMODE written by a read. -/
theorem State.arrive_cases (read err : Bool) (data : Byte) (s : State) :
    (err = true ∧ s.arrive read err data = .stop ({ s with phase := .none, env := { s.env with xfer := none } }.raise
      .transportError ((s.txn - 1).setWidth 32))) ∨
    (err = false ∧ s.arrive read err data = .go { s with
      phase := .none, env := { s.env with xfer := none }, oldMode := if read then data else s.oldMode }) := by
  cases err <;> cases read <;> simp [State.arrive]

/-- The state of a transaction that has been requested and waits for its answer. -/
def State.requested (req : I2cRequest) (s : State) : State :=
  { s with txn := s.txn + 1, i2cReq := s.i2cReq ++ [req], env := s.env.countRequest }

/-- The same, waiting. -/
def State.awaiting (req : I2cRequest) (s : State) : State :=
  let x : Transfer := ⟨req.rw, s.env.nextAnswer.latency, s.env.nextAnswer.err, s.env.nextAnswer.data⟩
  { s.requested req with phase := .i2cWait, env := { s.env.countRequest with xfer := some x } }

/-- All a transaction can do at the tick of its request: the response comes at once, or the block waits. -/
theorem State.transact_cases (req : I2cRequest) (s : State) :
    (s.env.nextAnswer.latency = some 0 ∧
      s.transact req = (s.requested req).arrive req.rw s.env.nextAnswer.err s.env.nextAnswer.data) ∨
    (s.env.nextAnswer.latency ≠ some 0 ∧
      s.transact req = .stop (s.awaiting req)) := by
  unfold State.transact
  by_cases h : s.env.nextAnswer.latency = some 0
  · exact .inl ⟨h, if_pos h⟩
  · exact .inr ⟨h, if_neg h⟩

/-- All a tick in I2C_WAIT can do: nothing, count the latency down, end the command with TransportError, or hand over
with the answer stored. -/
theorem State.transferTick_cases (next : State → State) (s : State) :
    s.transferTick next = s ∨
    (∃ x n, s.env.xfer = some x ∧ x.left = some (n + 2) ∧
      s.transferTick next = { s with env := { s.env with xfer := some { x with left := some (n + 1) } } }) ∨
    (∃ x n, s.env.xfer = some x ∧ x.left = some n ∧ n ≤ 1 ∧ x.err = true ∧
      s.transferTick next = { s with phase := .none, env := { s.env with xfer := none } }.raise
        .transportError ((s.txn - 1).setWidth 32)) ∨
    (∃ x n, s.env.xfer = some x ∧ x.left = some n ∧ n ≤ 1 ∧ x.err = false ∧
      s.transferTick next = next { s with
        phase := .none, env := { s.env with xfer := none }, oldMode := if x.read then x.data else s.oldMode }) := by
  unfold State.transferTick
  cases hx : s.env.xfer with
  | none => exact .inl rfl
  | some x =>
    cases hl : x.left with
    | none => exact .inl (by simp only [hl])
    | some n =>
      simp only [hl]
      by_cases hn : n ≤ 1
      · rw [if_pos hn]
        rcases State.arrive_cases x.read x.err x.data s with ⟨he, ha⟩ | ⟨he, ha⟩
        · exact .inr (.inr (.inl ⟨x, n, rfl, hl, hn, he, by rw [ha]⟩))
        · exact .inr (.inr (.inr ⟨x, n, rfl, hl, hn, he, by rw [ha]⟩))
      · obtain ⟨m, rfl⟩ : ∃ m, n = m + 2 := ⟨n - 2, by omega⟩
        rw [if_neg hn]
        exact .inr (.inl ⟨x, m, rfl, hl, rfl⟩)

/-! ## Runs of actions -/

/-- What a run of actions keeps: whatever every action keeps, going on or stopping, and the final answer keeps. -/
theorem State.runActions_keeps {P : State → Prop}
    (hgo : ∀ a s s', P s → State.act a { s with seq := s.seq + 1 } = .go s' → P s')
    (hstop : ∀ a s s', P s → State.act a { s with seq := s.seq + 1 } = .stop s' → P s')
    (hend : ∀ s, P s → P (s.respondOk 0)) (as : List Action) (s : State) (h : P s) : P (s.runActions as) := by
  induction as generalizing s with
  | nil => exact hend s h
  | cons a rest ih =>
    unfold State.runActions
    cases ha : State.act a { s with seq := s.seq + 1 } with
    | go s' => exact ih s' (hgo a s s' h ha)
    | stop s' => exact hstop a s s' h ha

/-- An action that is a transaction issues the request that R105 lists for it. -/
theorem State.act_transfer {a : Action} {s : State} {req : I2cRequest} (h : a.request? s.par s.oldMode = some req) :
    s.act a = s.transact req := by
  cases a <;> simp only [Action.request?, Option.some.injEq, reduceCtorEq] at h <;> subst h <;> rfl

/-- Every action is one transaction or one of the three that are none. -/
theorem Action.request?_isSome (a : Action) (p : Params) (b : Byte) : (a.request? p b).isSome = a.isTransfer := by
  cases a <;> rfl

end Sys2Proof.Machine
end

