-- ==== Sys2Proof/Laws/Step.lean ====
section
/-! SUPPORT. What a step is in each of its cases: a reset tick, an accepted word, an idle tick, a tick of the command in
progress. Proofs about `step` cite these and do not unfold it. -/

namespace Sys2Proof.Machine

theorem State.rstNow_nextTick (s : State) : s.nextTick.rstNow = decide (s.env.now + 1 ∈ s.env.rstTicks) := by
  simp [State.rstNow]

/-- A tick with `rst = 1` (70_reset_and_hazards R260). -/
theorem step_reset {s : State} (h : s.env.now + 1 ∈ s.env.rstTicks) : step s = .next s.nextTick.takeReset := by
  simp only [step, runTick, State.rstNow_nextTick, decide_eq_true h, if_true]

/-- A tick of the command in progress (10_state R26). -/
theorem step_busy {s : State} (h : s.st ≠ .idle) (hr : s.env.now + 1 ∉ s.env.rstTicks) :
    step s = continueCommand s.nextTick := by
  simp [step, runTick, State.rstNow_nextTick, hr, State.cmdReady, h]

/-- A tick in IDLE. -/
theorem step_idle {s : State} (h : s.st = .idle) (hr : s.env.now + 1 ∉ s.env.rstTicks) :
    step s = idleTick s.nextTick := by
  simp [step, runTick, State.rstNow_nextTick, hr, State.cmdReady, h]

/-- A tick that accepts a word (10_state R42). -/
theorem step_accept {s : State} {w : CmdWord} (h : s.accepts w) :
    step s = match decode w with
      | .ok i => exec i (s.nextTick.latch w)
      | .error _ => .next s.nextTick.rejectWord := by
  obtain ⟨h1, h2, k, rest, h3, h4⟩ := h
  rw [step_idle h1 h2]
  have ho : s.nextTick.offered = some w := by simp [State.offered, h3, h4]
  cases hd : decode w <;> simp [idleTick, ho, hd]

/-- A tick in IDLE accepts a word or does nothing. -/
theorem step_idle_cases {s : State} (h : s.st = .idle) (hr : s.env.now + 1 ∉ s.env.rstTicks) :
    (∃ w, s.accepts w) ∨ step s = .next s.nextTick := by
  cases ho : s.env.offers with
  | nil =>
    right
    rw [step_idle h hr]
    have : s.nextTick.offered = none := by simp [State.offered, ho]
    unfold idleTick
    rw [this]
  | cons o rest =>
    by_cases hk : o.tick ≤ s.env.now + 1
    · exact .inl ⟨o.word, h, hr, o.tick, rest, ho, hk⟩
    · right
      rw [step_idle h hr]
      have : s.nextTick.offered = none := by simp [State.offered, ho, hk]
      unfold idleTick
      rw [this]

/-- All a tick can be: a reset, a tick of the command in CMD, an idle tick, the first tick of an accepted command, or the
answer to a word that spells no command. -/
theorem step_cases {s t : State} (h : step s = .next t) :
    (s.env.now + 1 ∈ s.env.rstTicks ∧ t = s.nextTick.takeReset) ∨
    (s.env.now + 1 ∉ s.env.rstTicks ∧ s.st ≠ .idle ∧ ∃ i, decode s.cmd = .ok i ∧ exec i s.nextTick = .next t) ∨
    (s.env.now + 1 ∉ s.env.rstTicks ∧ s.st = .idle ∧ (∀ w, ¬s.accepts w) ∧ t = s.nextTick) ∨
    (∃ w i, s.accepts w ∧ decode w = .ok i ∧ exec i (s.nextTick.latch w) = .next t) ∨
    (∃ w e, s.accepts w ∧ decode w = .error e ∧ t = s.nextTick.rejectWord) := by
  by_cases hr : s.env.now + 1 ∈ s.env.rstTicks
  · rw [step_reset hr] at h
    cases h
    exact .inl ⟨hr, rfl⟩
  by_cases hs : s.st = .idle
  · by_cases ha : ∃ w, s.accepts w
    · obtain ⟨w, hw⟩ := ha
      rw [step_accept hw] at h
      cases hd : decode w with
      | ok i =>
        rw [hd] at h
        exact .inr (.inr (.inr (.inl ⟨w, i, hw, hd, h⟩)))
      | error e =>
        rw [hd] at h
        cases h
        exact .inr (.inr (.inr (.inr ⟨w, e, hw, hd, rfl⟩)))
    · rcases step_idle_cases hs hr with h' | h'
      · exact absurd h' ha
      · rw [h'] at h
        cases h
        exact .inr (.inr (.inl ⟨hr, hs, fun w hw => ha ⟨w, hw⟩, rfl⟩))
  · rw [step_busy hs hr] at h
    unfold continueCommand at h
    split at h
    · rename_i i hd
      exact .inr (.inl ⟨hr, hs, i, hd, h⟩)
    · cases h

/-- The state `withFetchWord` builds accepts its word at the next tick. -/
theorem State.withFetchWord_accepts (s : State) (nbits w : Nat) :
    (s.withFetchWord nbits w).accepts (BitVec.ofNat 64 (w % 2 ^ nbits)) :=
  ⟨rfl, by simp [State.withFetchWord, State.offerNext], 0, s.env.offers, rfl, Nat.zero_le _⟩

/-- The placed word is what the very next step accepts and runs. -/
theorem step_withFetchWord {s : State} {nbits w : Nat} {i : Instr} (h : decodeTableWord nbits w = some i) :
    step (s.withFetchWord nbits w) =
      exec i ((s.withFetchWord nbits w).nextTick.latch (BitVec.ofNat 64 (w % 2 ^ nbits))) := by
  rw [step_accept (s.withFetchWord_accepts nbits w)]
  cases hd : decode (BitVec.ofNat 64 (w % 2 ^ nbits)) with
  | ok j =>
    have hj : j = i := by simpa [decodeTableWord, hd] using h
    subst hj
    rfl
  | error e => simp [decodeTableWord, hd] at h

/-! ## Runs -/

theorem stepN_succ {n : Nat} {s t : State} (h : step s = .next t) : stepN (n + 1) s = stepN n t := by
  simp only [stepN, h]

theorem stepN_add {m n : Nat} {s t : State} (h : stepN m s = .next t) : stepN (m + n) s = stepN n t := by
  induction m generalizing s with
  | zero => cases h; rw [Nat.zero_add]
  | succ m ih =>
    unfold stepN at h
    split at h
    · rename_i s' hs
      rw [Nat.add_right_comm, stepN_succ hs]
      exact ih h
    · cases h
    · cases h

/-- The model's runs are the host's. -/
theorem stepN_eq_run (n : Nat) (s : State) : stepN n s = Host.Core.run core n s := by
  induction n generalizing s with
  | zero => rfl
  | succ n ih =>
    simp only [stepN]
    cases h : step s with
    | next s' =>
      simp only [Host.Core.run, show core.step s = .next s' from h]
      exact ih s'
    | fault r =>
      simp only [Host.Core.run, show core.step s = .fault r from h]
      rfl
    | refused r =>
      simp only [Host.Core.run, show core.step s = .refused r from h]
      rfl

end Sys2Proof.Machine
end

