-- ==== Sys2Proof/Laws/Invariant.lean ====
section
/-! SUPPORT. What the invariant says in each major state, and that beginning a tick or latching a word keeps it. -/

namespace Sys2Proof.Machine

open Sys2Proof.Config

theorem StateOk.idle_phase {s : State} (h : StateOk s) (hs : s.st = .idle) : s.phase = .none := by
  have hc := h.control
  unfold ControlOk at hc
  rw [hs] at hc
  split at hc <;> simp_all

theorem StateOk.idle_quiet {s : State} (h : StateOk s) (hs : s.st = .idle) : s.env.xfer = none :=
  h.quiet (by simp [h.idle_phase hs])

/-- A busy block runs a QUERY in one of its seven waits, or a command of units 2 and 3 in one of its two. -/
theorem StateOk.busy_cases {s : State} (h : StateOk s) (hs : s.st ≠ .idle) :
    (s.st ≠ .pwmSeq ∧ QueryRunning s ∧
      (s.st = .requestSent ∧ s.phase = .reqLow ∧ s.tmr.toNat < tReqLow ∨
        s.st = .requestSent ∧ s.phase = .reqWait ∧ s.tmr.toNat < tReqWait ∨
        s.st = .bitSampling ∧ s.phase = .bitDelay ∧ s.tmr.toNat < tBitDelay ∧ s.bitIdx.toNat < nBits ∨
        s.wait?.isSome = true ∧ s.tmr.toNat < s.par.edgeTimeout ∧
          (s.st = .awaitAck ∨ s.st = .bitSampling ∧ s.bitIdx.toNat < nBits))) ∨
    (s.st = .pwmSeq ∧ PwmRunning s ∧ (s.phase = .i2cWait ∨ s.phase = .oscWait ∧ s.tmr.toNat < tOscWait)) := by
  have hc := h.control
  unfold ControlOk at hc
  split at hc
  all_goals first
    | exact hc.elim
    | exact absurd ‹s.st = .idle› hs
    | skip
  all_goals simp_all [State.wait?]

theorem StateOk.nextTick {s : State} (h : StateOk s) : StateOk s.nextTick :=
  ⟨h.control, h.lines, h.pullups, h.reading, h.config, h.quiet⟩

theorem StateOk.latch {s : State} (h : StateOk s) (hs : s.st = .idle) (w : CmdWord) : StateOk (s.latch w) := by
  have hp := h.idle_phase hs
  refine ⟨?_, ⟨by simp [hs], fun _ => h.lines.2 (by simp [hs])⟩, h.pullups, h.reading, h.config, h.quiet⟩
  show ControlOk _
  unfold ControlOk
  simp [hs, hp]

end Sys2Proof.Machine
end

