-- ==== Sys2Proof/Laws/Operands.lean ====
section
/-! SUPPORT. What the operand checks and the calculators compute: one lemma per function, so that a proof need not unfold
it. -/

namespace Sys2Proof.Machine

open Sys2Proof.Config

/-! ## The order of the operand checks (60_exceptions R238) -/

@[simp] theorem firstIllegal_nil : firstIllegal [] = none := rfl

/-- The first operand decides, or the check goes on one operand later. -/
theorem firstIllegal_cons (b : Bool) (l : List Bool) :
    firstIllegal (b :: l) = if b = true then (firstIllegal l).map (· + 1) else some 0 := by
  cases b <;> simp [firstIllegal, List.findIdx?_cons]

/-- Every operand is legal. -/
theorem firstIllegal_eq_none {l : List Bool} : firstIllegal l = none ↔ ∀ b ∈ l, b = true := by
  simp [firstIllegal]

/-! ## The prescale calculator (42_pwm_driver R187) -/

/-- The quotient is the rounded one. -/
theorem prescaleQuotient_bounds {f : Nat} (h : 1 ≤ f) :
    prescaleQuotient f * (4096 * f) ≤ 25000000 + 2048 * f ∧
      25000000 + 2048 * f < (prescaleQuotient f + 1) * (4096 * f) := by
  have hpos : 0 < 4096 * f := by omega
  refine ⟨Nat.div_mul_le_self _ _, ?_⟩
  rw [Nat.add_mul, Nat.one_mul]
  exact Nat.lt_div_mul_add hpos

/-- A frequency has a prescale iff its quotient is in 1..256, and then the prescale is the quotient minus 1. -/
theorem prescale?_eq_some {f p : Nat} :
    prescale? f = some p ↔ 1 ≤ f ∧ prescaleQuotient f = p + 1 ∧ p ≤ 255 := by
  unfold prescale?
  dsimp only
  split
  · rename_i h
    rw [prescaleMin] at h
    rw [Option.some.injEq]
    omega
  · rename_i h
    rw [prescaleMin] at h
    simp only [reduceCtorEq, false_iff]
    omega

/-- The same, without the prescale. -/
theorem prescale?_isSome {f : Nat} :
    (prescale? f).isSome = true ↔ 1 ≤ f ∧ 1 ≤ prescaleQuotient f ∧ prescaleQuotient f ≤ 256 := by
  rw [Option.isSome_iff_exists]
  simp only [prescale?_eq_some]
  constructor
  · rintro ⟨p, h⟩
    omega
  · intro h
    exact ⟨prescaleQuotient f - 1, by omega⟩

/-! ## The motor mapping (43_actuator_mapping R216, R217) -/

/-- The magnitude is the product or, beyond it, the tick ceiling: never a wrapped product. -/
theorem motorMagnitude_eq (p : Params) (v : Int) :
    motorMagnitude p v = if v.natAbs * p.speedScale ≤ 4095 then v.natAbs * p.speedScale else 4095 := by
  rw [motorMagnitude, tickMax, Nat.min_def]

end Sys2Proof.Machine
end

