-- ==== Sys2Proof/Laws/PerInstr.lean ====
section
/-! SUPPORT. One statement per constructor of Instr: its word lies in the row of its mnemonic and in no other
(30_encoding R92). -/

namespace Sys2Proof.Laws.EncodesItsRow

open Sys2Proof

/-- The word of a command selects the row of R92 that bears its mnemonic, and no other row. -/
def Statement (i : Instr) : Prop := selectedMnemonics (encode i) = [i.mnemonic]

/-- The selected rows, row by row. -/
theorem selected_cons (r : OpcodeRow) (rs : List OpcodeRow) (w : CmdWord) :
    ((r :: rs).filter (·.selects w)).map (·.mnemonic) =
      (if r.selects w = true then [r.mnemonic] else []) ++ (rs.filter (·.selects w)).map (·.mnemonic) := by
  rw [List.filter_cons]
  split <;> rfl

/-- The rows that a word packed from fields selects: the opcode is the row's and the unused operands are 0. -/
theorem selected_packFields (op : Byte) (a b c : Half) :
    selectedMnemonics (packFields op a b c) =
      (if op = 0x01 ∧ c = 0 then ["QUERY"] else []) ++ (if op = 0x02 ∧ b = 0 ∧ c = 0 then ["RDREG"] else []) ++
      (if op = 0x10 ∧ a = 0 ∧ b = 0 ∧ c = 0 then ["INIT"] else []) ++
      (if op = 0x11 ∧ b = 0 ∧ c = 0 then ["SETFREQ"] else []) ++ (if op = 0x12 then ["SETDUTY"] else []) ++
      (if op = 0x13 ∧ c = 0 then ["SERVO"] else []) ++ (if op = 0x14 ∧ c = 0 then ["MOTOR"] else []) := by
  have hz : ∀ x : Half, (x &&& 0 = 0) = True := fun x => by simp
  unfold selectedMnemonics
  rw [opcodeRows_fields]
  simp only [selected_cons, List.filter_nil, List.map_nil, selects_fieldWord, packFields_op, packFields_z, packFields_a,
    packFields_b, packFields_c, BitVec.and_allOnes, hz, true_and, and_true, decide_eq_true_eq, List.append_assoc, List.append_nil]

theorem query (l f : Nat) : Statement (.query l f) := by
  unfold Statement
  simp [encode, selected_packFields, Instr.mnemonic]

theorem rdreg (r : Nat) : Statement (.rdreg r) := by
  unfold Statement
  simp [encode, selected_packFields, Instr.mnemonic]

theorem init : Statement .init := by
  unfold Statement
  simp [encode, selected_packFields, Instr.mnemonic]

theorem setfreq (f : Nat) : Statement (.setfreq f) := by
  unfold Statement
  simp [encode, selected_packFields, Instr.mnemonic]

theorem setduty (ch n f : Nat) : Statement (.setduty ch n f) := by
  unfold Statement
  simp [encode, selected_packFields, Instr.mnemonic]

theorem servo (ch d : Nat) : Statement (.servo ch d) := by
  unfold Statement
  simp [encode, selected_packFields, Instr.mnemonic]

theorem motor (i : Nat) (v : Int) : Statement (.motor i v) := by
  unfold Statement
  simp [encode, selected_packFields, Instr.mnemonic]

end Sys2Proof.Laws.EncodesItsRow
end

