-- ==== Sys2Proof/Laws/Pwm.lean ====
section
/-! SUPPORT. What one action of a register-write sequence can do (`ActOutcome`), an induction over the actions that run in
one tick, all a tick of a command of units 2 and 3 can do (`PwmTick`), and where SEQ stands in its sequence. Proofs about
INIT, SETFREQ, SETDUTY, SERVO and MOTOR take a tick apart with `execPwm_tick` and do not unfold `execPwm`. -/

namespace Sys2Proof.Machine

open Sys2Proof.Config

/-! ## One action -/

/-- A transaction's answer came at once and was an error. -/
def State.failedAtOnce (req : I2cRequest) (s : State) : State :=
  { s.requested req with
    st := .idle
    phase := .none
    env := { s.env.countRequest with xfer := none }
    rsp := some (responseWord .transportError ((s.txn + 1 - 1).setWidth 32)) }

/-- A transaction's answer came at once and was no error. -/
def State.answeredAtOnce (req : I2cRequest) (s : State) : State :=
  { s.requested req with
    phase := .none
    env := { s.env.countRequest with xfer := none }
    oldMode := if req.rw then s.env.nextAnswer.data else s.oldMode }

/-- How an action leaves the sequence. -/
inductive ActOutcome (a : Action) (s : State) : Flow → Prop where
  | awaits (req : I2cRequest) (hr : a.request? s.par s.oldMode = some req)
      (hl : s.env.nextAnswer.latency ≠ some 0) : ActOutcome a s (.stop (s.awaiting req))
  | fails (req : I2cRequest) (hr : a.request? s.par s.oldMode = some req) (hl : s.env.nextAnswer.latency = some 0)
      (he : s.env.nextAnswer.err = true) : ActOutcome a s (.stop (s.failedAtOnce req))
  | passes (req : I2cRequest) (hr : a.request? s.par s.oldMode = some req) (hl : s.env.nextAnswer.latency = some 0)
      (he : s.env.nextAnswer.err = false) : ActOutcome a s (.go (s.answeredAtOnce req))
  | waits (ha : a = .oscWait) : ActOutcome a s (.stop { s with phase := .oscWait, tmr := 0 })
  | commits (f p : Nat) (ha : a = .commitConfig f p) :
      ActOutcome a s (.go { s with cfgFreq := BitVec.ofNat 16 f, cfgPrescale := BitVec.ofNat 8 p })
  | marks (ha : a = .markInited) : ActOutcome a s (.go { s with inited := true, seq := 0 })

/-- Every action leaves the sequence in one of these ways. -/
theorem State.act_outcome (a : Action) (s : State) : ActOutcome a s (s.act a) := by
  cases hr : a.request? s.par s.oldMode with
  | some req =>
    rw [State.act_transfer hr]
    rcases State.transact_cases req s with ⟨hl, ht⟩ | ⟨hl, ht⟩
    · rw [ht]
      cases he : s.env.nextAnswer.err
      · have : (s.requested req).arrive req.rw false s.env.nextAnswer.data = .go (s.answeredAtOnce req) := by
          unfold State.arrive State.answeredAtOnce
          cases req.rw <;> rfl
        rw [this]
        exact .passes req hr hl he
      · exact .fails req hr hl he
    · rw [ht]
      exact .awaits req hr hl
  | none =>
    cases a <;> simp only [Action.request?, reduceCtorEq] at hr
    · exact .waits rfl
    · rename_i f p
      exact .commits f p rfl
    · exact .marks rfl

/-! ## The actions of one tick -/

/-- The next step of the sequence begins. -/
def State.nextSeq (s : State) : State := { s with seq := s.seq + 1 }

theorem State.runActions_cons (a : Action) (rest : List Action) (s : State) :
    s.runActions (a :: rest) = match s.nextSeq.act a with
      | .go t => t.runActions rest
      | .stop t => t := rfl

/-- Induction over the actions of one tick: `Q rest s` holds when `rest` is still to do in state `s`. -/
theorem State.runActions_ind {Q : List Action → State → Prop} {R : State → Prop}
    (hgo : ∀ a rest s t, Q (a :: rest) s → ActOutcome a s.nextSeq (.go t) → Q rest t)
    (hstop : ∀ a rest s t, Q (a :: rest) s → ActOutcome a s.nextSeq (.stop t) → R t)
    (hend : ∀ s, Q [] s → R (s.respondOk 0)) (as : List Action) (s : State) (h : Q as s) : R (s.runActions as) := by
  induction as generalizing s with
  | nil => exact hend s h
  | cons a rest ih =>
    rw [State.runActions_cons]
    have ho := State.act_outcome a s.nextSeq
    cases ha : s.nextSeq.act a with
    | go t => exact ih t (hgo a rest s t h (ha ▸ ho))
    | stop t => exact hstop a rest s t h (ha ▸ ho)

/-- A transaction that is answered at once without an error lets the rest of the sequence act at this tick. -/
theorem State.runActions_now {a : Action} {rest : List Action} {s : State} {req : I2cRequest}
    (hr : a.request? s.par s.oldMode = some req) (hl : s.env.nextAnswer.latency = some 0)
    (he : s.env.nextAnswer.err = false) :
    s.runActions (a :: rest) = (s.nextSeq.answeredAtOnce req).runActions rest := by
  rw [State.runActions_cons]
  have ho := State.act_outcome a s.nextSeq
  generalize s.nextSeq.act a = f at ho
  have hr' : a.request? s.nextSeq.par s.nextSeq.oldMode = some req := hr
  cases ho with
  | awaits _ _ h => exact absurd hl h
  | fails _ _ _ h => exact absurd (h.symm.trans he) (by simp)
  | passes r h => rw [hr'] at h; cases h; rfl
  | waits h => subst h; cases hr'
  | commits _ _ h => subst h; cases hr'
  | marks h => subst h; cases hr'

/-- One more byte at the front of a payload is the lowest byte (10_state R44). -/
theorem packPayload_cons (b : Byte) (bs : List Byte) :
    packPayload (b :: bs) = packPayload bs <<< 8 ||| b.setWidth 40 := rfl

/-! ## All a tick can do -/

/-- The sequence as a command's acceptance starts it. -/
def State.startSeq (s : State) : State := { s with st := .pwmSeq, phase := .none, seq := 0, txn := 0 }

/-- The outstanding transaction is answered without an error. -/
def State.answered (x : Transfer) (s : State) : State :=
  { s with
    phase := .none, env := { s.env with xfer := none }, oldMode := if x.read then x.data else s.oldMode }

/-- A tick of a command with this body that leads from `s` to the state named. -/
inductive PwmTick (illegal : Option Nat) (body : List Action) (s : State) : State → Prop where
  | outOfRange (k : Nat) (hst : s.st = .idle) (hk : illegal = some k) :
    PwmTick illegal body s { s with
      st := .idle, phase := .none, rsp := some (responseWord .rangeError (BitVec.ofNat 32 k)) }
  | accepted (hst : s.st = .idle) (hk : illegal = none) : PwmTick illegal body s (s.startSeq.resumeSeq body)
  | unanswered (hst : s.st = .pwmSeq) (hph : s.phase = .i2cWait) (hx : ∀ x, s.env.xfer = some x → x.left = none) :
    PwmTick illegal body s s
  | counted (x : Transfer) (n : Nat) (hst : s.st = .pwmSeq) (hph : s.phase = .i2cWait) (hx : s.env.xfer = some x)
      (hl : x.left = some (n + 2)) :
    PwmTick illegal body s { s with env := { s.env with xfer := some { x with left := some (n + 1) } } }
  | failed (x : Transfer) (n : Nat) (hst : s.st = .pwmSeq) (hph : s.phase = .i2cWait) (hx : s.env.xfer = some x)
      (hl : x.left = some n) (hn : n ≤ 1) (he : x.err = true) :
    PwmTick illegal body s { s with
      st := .idle
      phase := .none
      env := { s.env with xfer := none }
      rsp := some (responseWord .transportError ((s.txn - 1).setWidth 32)) }
  | answered (x : Transfer) (n : Nat) (hst : s.st = .pwmSeq) (hph : s.phase = .i2cWait) (hx : s.env.xfer = some x)
      (hl : x.left = some n) (hn : n ≤ 1) (he : x.err = false) :
    PwmTick illegal body s ((s.answered x).resumeSeq body)
  | waited (hst : s.st = .pwmSeq) (hph : s.phase = .oscWait) (ht : (s.tmr + 1).toNat < tOscWait) :
    PwmTick illegal body s { s with tmr := s.tmr + 1 }
  | stable (hst : s.st = .pwmSeq) (hph : s.phase = .oscWait) (ht : tOscWait ≤ (s.tmr + 1).toNat) :
    PwmTick illegal body s ({ s with tmr := s.tmr + 1, phase := .none }.resumeSeq body)

/-- Every tick of a command of units 2 and 3 is one of these. -/
theorem execPwm_tick {illegal : Option Nat} {body : List Action} {s t : State}
    (h : execPwm illegal body s = .next t) : PwmTick illegal body s t := by
  unfold execPwm at h
  split at h
  · rename_i hst
    cases h
    unfold State.acceptPwm
    split
    · rename_i k
      exact .outOfRange k hst rfl
    · exact .accepted hst rfl
  · rename_i hst hph
    cases h
    cases hx : s.env.xfer with
    | none =>
      rw [show s.transferTick (State.resumeSeq body) = s by simp [State.transferTick, hx]]
      exact .unanswered hst hph (by simp [hx])
    | some x =>
      cases hl : x.left with
      | none =>
        rw [show s.transferTick (State.resumeSeq body) = s by simp [State.transferTick, hx, hl]]
        exact .unanswered hst hph fun y hy => by
          rw [hx] at hy
          cases hy
          exact hl
      | some n =>
        by_cases hn : n ≤ 1
        · cases he : x.err
          · have ha : s.arrive x.read x.err x.data = .go (s.answered x) := by
              rcases State.arrive_cases x.read x.err x.data s with ⟨h1, -⟩ | ⟨-, h2⟩
              · rw [he] at h1
                cases h1
              · exact h2
            rw [show s.transferTick (State.resumeSeq body) = (s.answered x).resumeSeq body by
              simp only [State.transferTick, hx, hl, if_pos hn, ha]]
            exact .answered x n hst hph hx hl hn he
          · rw [show s.transferTick (State.resumeSeq body) = _ by
              simp only [State.transferTick, hx, hl, if_pos hn, State.arrive, he, if_true]
              rfl]
            exact .failed x n hst hph hx hl hn he
        · obtain ⟨m, rfl⟩ : ∃ m, n = m + 2 := ⟨n - 2, by omega⟩
          rw [show s.transferTick (State.resumeSeq body) = _ by
            simp only [State.transferTick, hx, hl, if_neg hn]
            rfl]
          exact .counted x m hst hph hx hl
  · rename_i hst hph
    cases h
    by_cases ht : tOscWait ≤ (s.tmr + 1).toNat
    · rw [show s.delayTick tOscWait _ = _ from if_pos ht]
      exact .stable hst hph ht
    · rw [show s.delayTick tOscWait _ = _ from if_neg ht]
      exact .waited hst hph (by omega)
  · cases h

/-- The meaning of a command of units 2 and 3 is `execPwm` of its body. -/
theorem exec_of_pwmBody {i : Instr} {s : State} {body : List Action} (h : pwmBody s.par i = some body) :
    exec i s = execPwm (illegalOperand s.par i) body s := by
  cases i <;> simp only [pwmBody, Option.some.injEq, reduceCtorEq] at h <;> subst h <;> rfl

/-- A command is QUERY, RDREG, or a command of units 2 and 3. -/
theorem unit_cases (i : Instr) (p : Params) :
    (∃ L f, i = .query L f) ∨ (∃ r, i = .rdreg r) ∨ ∃ body, pwmBody p i = some body := by
  cases i <;> simp [pwmBody]

/-! ## Where SEQ stands -/

/-- A body is short, marks nothing initialised, and commits only a prescale that is the frequency's. -/
theorem pwmBody_facts {p : Params} {i : Instr} {body : List Action} (h : pwmBody p i = some body) :
    body.length ≤ 7 ∧ Action.markInited ∉ body ∧
      ∀ f q, Action.commitConfig f q ∈ body → prescale? f = some q := by
  cases i <;> simp only [pwmBody, Option.some.injEq, reduceCtorEq] at h <;> subst h
  · simp [initBody]
  · rename_i f
    unfold setfreqBody
    split
    · rename_i q hq
      simp only [setFreqSeq, List.length_cons, List.length_nil, List.mem_cons, List.not_mem_nil, reduceCtorEq, or_false,
        false_or, Action.commitConfig.injEq]
      exact ⟨by decide, by simp, by rintro f' q' ⟨rfl, rfl⟩; exact hq⟩
    · simp
  · simp [setdutyBody]
  · simp [servoBody]
  · unfold motorBody
    dsimp only
    split <;> simp

theorem initializeSeq_length : initializeSeq.length = 9 := by decide

/-- The initialisation commits `Prescale(50)` (42_pwm_driver R184). -/
theorem initializeSeq_commits {f q : Nat} (h : Action.commitConfig f q ∈ initializeSeq) : f = 50 ∧ q = 121 := by
  simpa [initializeSeq, setFreqSeq, defaultFreq, defaultPrescale] using h

theorem initializeSeq_marks {k : Nat} (h : initializeSeq[k]? = some .markInited) : k = 8 := by
  have hk : k < 9 := by
    rw [← initializeSeq_length]
    exact (List.getElem?_eq_some_iff.1 h).1
  interval_cases k <;> simp [initializeSeq, setFreqSeq] at h ⊢

/-- The step at SEQ, and what is left after it, of a sequence that is not through. -/
theorem State.pendingActions_step {body rest : List Action} {a : Action} {s : State}
    (h : s.pendingActions body = a :: rest) (hs : s.seq.toNat < (s.program body).length ∨ s.inited = true) :
    (s.program body)[s.seq.toNat]? = some a ∧ s.seq.toNat < (s.program body).length ∧
      (s.program body).take (s.seq.toNat + 1) = (s.program body).take s.seq.toNat ++ [a] ∧
      rest = (s.program body).drop (s.seq.toNat + 1) ++ if s.inited = true then [] else body := by
  have key : ∀ l tail : List Action, l.drop s.seq.toNat ++ tail = a :: rest → s.seq.toNat < l.length →
      l[s.seq.toNat]? = some a ∧ l.take (s.seq.toNat + 1) = l.take s.seq.toNat ++ [a] ∧
        rest = l.drop (s.seq.toNat + 1) ++ tail := by
    intro l tail hl hlt
    rw [List.drop_eq_getElem_cons hlt, List.cons_append] at hl
    injection hl with h1 h2
    refine ⟨by rw [List.getElem?_eq_getElem hlt, h1], ?_, h2.symm⟩
    rw [List.take_succ_eq_append_getElem hlt, h1]
  unfold State.pendingActions at h
  unfold State.program at hs ⊢
  cases hi : s.inited
  · simp only [hi, Bool.false_eq_true, if_false, or_false] at h hs ⊢
    obtain ⟨h1, h2, h3⟩ := key _ _ h hs
    exact ⟨h1, hs, h2, h3⟩
  · simp only [hi, if_true] at h ⊢
    have hlt : s.seq.toNat < body.length := by
      by_contra hc
      rw [List.drop_eq_nil_of_le (by omega)] at h
      cases h
    obtain ⟨h1, h2, h3⟩ := key body [] (by rw [List.append_nil]; exact h) hlt
    exact ⟨h1, hlt, h2, h3⟩

theorem transfers_append (xs ys : List Action) : transfers (xs ++ ys) = transfers xs + transfers ys := by
  simp [transfers]

theorem transfers_le (xs : List Action) : transfers xs ≤ xs.length := List.length_filter_le _ _

end Sys2Proof.Machine
end

