-- ==== Sys2Proof/Laws/Query.lean ====
section
/-! SUPPORT. What each step of QUERY's sequence does at its tick, and all a tick of QUERY can do (`QueryTick`): proofs
about QUERY take a tick apart with `execQuery_tick` and do not unfold `execQuery`. -/

namespace Sys2Proof.Machine

open Sys2Proof.Config

/-! ## The steps of the sequence -/

theorem State.startReqWait_eq (L : Nat) (s : State) :
    s.startReqWait L = { s with
      sdOe := removeLine L s.sdOe, sdPu := if s.par.pullupEn = true then insertLine L s.sdPu else s.sdPu, phase := .reqWait, tmr := 0 } := by
  unfold State.startReqWait
  by_cases h : s.par.pullupEn = true
  · rw [show (s.release L).enablePullup L = _ from if_pos h, if_pos h]
    rfl
  · rw [show (s.release L).enablePullup L = _ from if_neg h, if_neg h]
    rfl

/-- The wait for the acknowledgement's end starts in a tick in which the line is low, so its first look misses. -/
theorem State.startAckHigh_low {L : Nat} {s : State} (h : s.sample L = false) :
    s.startAckHigh L = { s with phase := .ackWaitHigh, tmr := 0 } :=
  State.look_miss (by show ¬ s.sample L = true; simp [h])

theorem State.startAwaitAck_eq (L : Nat) (s : State) :
    s.startAwaitAck L = { s with
      st := .awaitAck, phase := if s.sample L = false then .ackWaitHigh else .ackWaitLow, tmr := 0 } := by
  unfold State.startAwaitAck
  by_cases h : s.sample L = false
  · rw [State.look_pass (by exact h), State.startAckHigh_low (by exact h), if_pos h]
    rfl
  · rw [State.look_miss (by exact h), if_neg h]
    rfl

/-- The rise of a slot is waited for from a tick in which the line is low, so the first look misses. -/
theorem State.startBitRise_low {L : Nat} {s : State} (h : s.sample L = false) :
    s.startBitRise L = { s with phase := .bitWaitRise, tmr := 0 } :=
  State.look_miss (by show ¬ s.sample L = true; simp [h])

theorem State.startBitDelay_eq (s : State) : s.startBitDelay = { s with phase := .bitDelay, tmr := 0 } := rfl

theorem State.startBitFall_eq (L : Nat) (s : State) :
    s.startBitFall L = { s with
      phase := if s.sample L = false then .bitWaitRise else .bitWaitFall, tmr := 0 } := by
  unfold State.startBitFall
  by_cases h : s.sample L = false
  · rw [State.look_pass (by exact h), State.startBitRise_low (by exact h), if_pos h]
    rfl
  · rw [State.look_miss (by exact h), if_neg h]
    rfl

/-- The acknowledgement ends in a tick in which the line is high, so slot 0 has not fallen yet. -/
theorem State.startBitSampling_high {L : Nat} {s : State} (h : s.sample L = true) :
    s.startBitSampling L = { s with st := .bitSampling, bitIdx := 0, phase := .bitWaitFall, tmr := 0 } := by
  unfold State.startBitSampling
  rw [State.startBitFall_eq, if_neg (by show ¬ s.sample L = false; simp [h])]

/-- The next value of BITIDX. -/
theorem bitIdx_succ (b : BitVec 6) : (b + 1).toNat = (b.toNat + 1) % 64 := by
  rw [BitVec.toNat_add]
  rfl

/-- The next value of TMR. -/
theorem tmr_succ (b : BitVec 32) : (b + 1).toNat = (b.toNat + 1) % 4294967296 := by
  rw [BitVec.toNat_add]
  rfl

/-! ## The last sample -/

/-- The checksum condition on numbers (40_sensor_query R142). -/
theorem ResultBytes.accepted_iff (r : ResultBytes) :
    r.accepted = true ↔ (r.rb0.toNat + r.rb1.toNat + r.rb2.toNat + r.rb3.toNat) % 256 = r.rb4.toNat := by
  unfold ResultBytes.accepted checksum
  rw [beq_iff_eq, ← BitVec.toNat_inj]
  simp

/-- FRAME after the sample of the current slot. -/
def State.sampledFrame (L : Nat) (s : State) : Vector Bool 40 := s.frame.setIfInBounds s.bitIdx.toNat (s.sample L)

/-- A sample that is not the 40th: slot `i + 1` starts at this tick (R136). -/
theorem State.sampleBit_more {L f : Nat} {s : State} (h : (s.bitIdx + 1).toNat < 40) :
    s.sampleBit L f = { s with
      frame := s.sampledFrame L
      bitIdx := s.bitIdx + 1
      phase := if s.sample L = false then .bitWaitRise else .bitWaitFall
      tmr := 0 } := by
  unfold State.sampleBit
  refine (if_neg (show ¬40 ≤ (s.bitIdx + 1).toNat by omega)).trans ?_
  rw [State.startBitFall_eq]
  rfl

/-- The 40th sample of a frame that passes the checksum (R139 to R146). -/
theorem State.sampleBit_accepted {L f : Nat} {s : State} (h : 40 ≤ (s.bitIdx + 1).toNat)
    (ha : (assembleFrame (s.sampledFrame L)).accepted = true) :
    s.sampleBit L f = { s with
      frame := s.sampledFrame L
      bitIdx := s.bitIdx + 1
      rb := assembleFrame (s.sampledFrame L)
      hum := BitVec.ofInt 32 (decodeReading f (assembleFrame (s.sampledFrame L))).1
      temp := BitVec.ofInt 32 (decodeReading f (assembleFrame (s.sampledFrame L))).2
      valid := true
      st := .idle
      phase := .none
      rsp := some (responseWord .ok 0) } := by
  unfold State.sampleBit
  refine (if_pos (show 40 ≤ (s.bitIdx + 1).toNat from h)).trans ?_
  exact if_pos ha

/-- The 40th sample of a frame that fails the checksum (R142, R143). -/
theorem State.sampleBit_rejected {L f : Nat} {s : State} (h : 40 ≤ (s.bitIdx + 1).toNat)
    (ha : (assembleFrame (s.sampledFrame L)).accepted = false) :
    s.sampleBit L f = { s with
      frame := s.sampledFrame L
      bitIdx := s.bitIdx + 1
      rb := assembleFrame (s.sampledFrame L)
      st := .idle
      phase := .none
      rsp := some (responseWord .checksumMismatch (mismatchInfo (assembleFrame (s.sampledFrame L)))) } := by
  unfold State.sampleBit
  refine (if_pos (show 40 ≤ (s.bitIdx + 1).toNat from h)).trans ?_
  exact if_neg (show ¬(assembleFrame (s.sampledFrame L)).accepted = true by simp [ha])

/-! ## All a tick can do -/

/-- A tick of `QUERY L, f` that leads from `s` to the state named. The timer's value is said where TMR is in range. -/
inductive QueryTick (L f : Nat) (s : State) : State → Prop where
  | outOfRange (k : Nat) (hst : s.st = .idle) (hk : queryIllegal s.par L f = some k) :
    QueryTick L f s { s with
      valid := false, st := .idle, phase := .none, rsp := some (responseWord .rangeError (BitVec.ofNat 32 k)) }
  | accepted (hst : s.st = .idle) (hk : queryIllegal s.par L f = none) :
    QueryTick L f s { s with
      valid := false, st := .requestSent, phase := .reqLow, tmr := 0, sdOe := insertLine L s.sdOe }
  | counted (hst : s.st ≠ .idle)
      (hin : (s.st = .requestSent ∧ s.phase = .reqLow ∧ (s.tmr + 1).toNat < tReqLow) ∨
        (s.st = .requestSent ∧ s.phase = .reqWait ∧ (s.tmr + 1).toNat < tReqWait) ∨
        (s.st = .bitSampling ∧ s.phase = .bitDelay ∧ (s.tmr + 1).toNat < tBitDelay) ∨
        (∃ v site, s.wait? = some (v, site) ∧ s.sample L ≠ v ∧ (s.tmr + 1).toNat < s.par.edgeTimeout)) :
    QueryTick L f s { s with tmr := s.tmr + 1 }
  | timedOut (v : Bool) (site : Nat) (hw : s.wait? = some (v, site)) (ht : s.par.edgeTimeout ≤ (s.tmr + 1).toNat) :
    QueryTick L f s { s with
      tmr := s.tmr + 1, st := .idle, phase := .none, rsp := some (responseWord .timeout (BitVec.ofNat 32 site)) }
  | released (hst : s.st = .requestSent) (hph : s.phase = .reqLow) (ht : tReqLow ≤ (s.tmr + 1).toNat) :
    QueryTick L f s { s with
      sdOe := removeLine L s.sdOe, sdPu := if s.par.pullupEn = true then insertLine L s.sdPu else s.sdPu, phase := .reqWait, tmr := 0 }
  | firstLooked (hst : s.st = .requestSent) (hph : s.phase = .reqWait) (ht : tReqWait ≤ (s.tmr + 1).toNat) :
    QueryTick L f s { s with
      st := .awaitAck, phase := if s.sample L = false then .ackWaitHigh else .ackWaitLow, tmr := 0 }
  | ackStarted (hst : s.st = .awaitAck) (hph : s.phase = .ackWaitLow) (hs : s.sample L = false)
      (ht : (s.tmr + 1).toNat < s.par.edgeTimeout) :
    QueryTick L f s { s with phase := .ackWaitHigh, tmr := 0 }
  | ackEnded (hst : s.st = .awaitAck) (hph : s.phase = .ackWaitHigh) (hs : s.sample L = true)
      (ht : (s.tmr + 1).toNat < s.par.edgeTimeout) :
    QueryTick L f s { s with st := .bitSampling, bitIdx := 0, phase := .bitWaitFall, tmr := 0 }
  | fell (hst : s.st = .bitSampling) (hph : s.phase = .bitWaitFall) (hs : s.sample L = false)
      (ht : (s.tmr + 1).toNat < s.par.edgeTimeout) :
    QueryTick L f s { s with phase := .bitWaitRise, tmr := 0 }
  | rose (hst : s.st = .bitSampling) (hph : s.phase = .bitWaitRise) (hs : s.sample L = true)
      (ht : (s.tmr + 1).toNat < s.par.edgeTimeout) :
    QueryTick L f s { s with phase := .bitDelay, tmr := 0 }
  | sampled (hst : s.st = .bitSampling) (hph : s.phase = .bitDelay) (ht : tBitDelay ≤ (s.tmr + 1).toNat)
      (hb : (s.bitIdx + 1).toNat < 40) :
    QueryTick L f s { s with
      frame := s.sampledFrame L
      bitIdx := s.bitIdx + 1
      phase := if s.sample L = false then .bitWaitRise else .bitWaitFall
      tmr := 0 }
  | read (hst : s.st = .bitSampling) (hph : s.phase = .bitDelay) (ht : tBitDelay ≤ (s.tmr + 1).toNat)
      (hb : 40 ≤ (s.bitIdx + 1).toNat) (ha : (assembleFrame (s.sampledFrame L)).accepted = true) :
    QueryTick L f s { s with
      frame := s.sampledFrame L
      bitIdx := s.bitIdx + 1
      tmr := s.tmr + 1
      rb := assembleFrame (s.sampledFrame L)
      hum := BitVec.ofInt 32 (decodeReading f (assembleFrame (s.sampledFrame L))).1
      temp := BitVec.ofInt 32 (decodeReading f (assembleFrame (s.sampledFrame L))).2
      valid := true
      st := .idle
      phase := .none
      rsp := some (responseWord .ok 0) }
  | mismatched (hst : s.st = .bitSampling) (hph : s.phase = .bitDelay) (ht : tBitDelay ≤ (s.tmr + 1).toNat)
      (hb : 40 ≤ (s.bitIdx + 1).toNat) (ha : (assembleFrame (s.sampledFrame L)).accepted = false) :
    QueryTick L f s { s with
      frame := s.sampledFrame L
      bitIdx := s.bitIdx + 1
      tmr := s.tmr + 1
      rb := assembleFrame (s.sampledFrame L)
      st := .idle
      phase := .none
      rsp := some (responseWord .checksumMismatch (mismatchInfo (assembleFrame (s.sampledFrame L)))) }

/-- One tick of a delay: it counts, or it is over and the next primitive acts. -/
theorem State.delayTick_eq (n : Nat) (next : State → State) (s : State) :
    s.delayTick n next = if n ≤ (s.tmr + 1).toNat then next s.countTick else s.countTick := rfl

/-- One tick of a wait. -/
theorem State.waitTick_eq (L site : Nat) (v : Bool) (next : State → State) (s : State) :
    s.waitTick L v site next =
      if s.par.edgeTimeout ≤ (s.tmr + 1).toNat then s.countTick.raiseTimeout site
      else if s.sample L = v then next s.countTick else s.countTick := rfl

/-- A wait's tick, once it is known what comes after it. -/
theorem QueryTick.ofWait {L f site : Nat} {v : Bool} {s : State} {next : State → State}
    (hw : s.wait? = some (v, site)) (hst : s.st ≠ .idle)
    (hn : s.sample L = v → (s.tmr + 1).toNat < s.par.edgeTimeout → QueryTick L f s (next s.countTick)) :
    QueryTick L f s (s.waitTick L v site next) := by
  rw [State.waitTick_eq]
  split
  · rename_i ht
    exact .timedOut v site hw ht
  · rename_i ht
    split
    · rename_i hs
      exact hn hs (by omega)
    · rename_i hs
      exact .counted hst (.inr (.inr (.inr ⟨v, site, hw, hs, by omega⟩)))

/-- Every tick of QUERY is one of these. -/
theorem execQuery_tick {L f : Nat} {s t : State} (h : execQuery L f s = .next t) : QueryTick L f s t := by
  unfold execQuery at h
  split at h
  · rename_i hst
    cases h
    unfold State.acceptQuery
    dsimp only [State.clearValid_par]
    split
    · rename_i k hk
      have := QueryTick.outOfRange (L := L) (f := f) (s := s) k hst hk
      exact this
    · rename_i hk
      exact .accepted hst hk
  · rename_i hst hph
    cases h
    rw [State.delayTick_eq]
    split
    · rename_i ht
      rw [State.startReqWait_eq]
      exact .released hst hph ht
    · rename_i ht
      exact .counted (by simp [hst]) (.inl ⟨hst, hph, by omega⟩)
  · rename_i hst hph
    cases h
    rw [State.delayTick_eq]
    split
    · rename_i ht
      rw [State.startAwaitAck_eq]
      exact .firstLooked hst hph ht
    · rename_i ht
      exact .counted (by simp [hst]) (.inr (.inl ⟨hst, hph, by omega⟩))
  · rename_i hst hph
    cases h
    refine QueryTick.ofWait (by simp [State.wait?, hst, hph]) (by simp [hst]) fun hs ht => ?_
    rw [State.startAckHigh_low (s := s.countTick) hs]
    exact .ackStarted hst hph hs ht
  · rename_i hst hph
    cases h
    refine QueryTick.ofWait (by simp [State.wait?, hst, hph]) (by simp [hst]) fun hs ht => ?_
    rw [State.startBitSampling_high (s := s.countTick) hs]
    exact .ackEnded hst hph hs ht
  · rename_i hst hph
    cases h
    refine QueryTick.ofWait (by simp [State.wait?, hst, hph]) (by simp [hst]) fun hs ht => ?_
    rw [State.startBitRise_low (s := s.countTick) hs]
    exact .fell hst hph hs ht
  · rename_i hst hph
    cases h
    refine QueryTick.ofWait (by simp [State.wait?, hst, hph]) (by simp [hst]) fun hs ht => ?_
    exact .rose hst hph hs ht
  · rename_i hst hph
    cases h
    rw [State.delayTick_eq]
    split
    · rename_i ht
      by_cases hb : (s.bitIdx + 1).toNat < 40
      · rw [State.sampleBit_more (s := s.countTick) hb]
        exact .sampled hst hph ht hb
      · have hb : 40 ≤ (s.bitIdx + 1).toNat := by omega
        cases ha : (assembleFrame (s.sampledFrame L)).accepted
        · rw [State.sampleBit_rejected (s := s.countTick) hb ha]
          exact .mismatched hst hph ht hb ha
        · rw [State.sampleBit_accepted (s := s.countTick) hb ha]
          exact .read hst hph ht hb ha
    · rename_i ht
      exact .counted (by simp [hst]) (.inr (.inr (.inl ⟨hst, hph, by omega⟩)))
  · cases h

end Sys2Proof.Machine
end

