-- ==== Sys2Proof/Tests/Slice0.lean ====
section
/-! SUPPORT. The model's own tests (expected values from spec/95_test_vectors.md and 30_encoding R107, with the parameter
values of 95_test_vectors section 1), and one witness for every obligation that has hypotheses. -/

namespace Sys2Proof.Tests

open Sys2Proof Sys2Proof.Machine Sys2Proof.Config

/-! ## WellFormed refuses ill-formed terms -/

theorem test_wf_query_line : (Instr.query 65536 0).wf = false := by decide
theorem test_wf_query_family : (Instr.query 0 65536).wf = false := by decide
theorem test_wf_rdreg : (Instr.rdreg 65536).wf = false := by decide
theorem test_wf_setfreq : (Instr.setfreq 65536).wf = false := by decide
theorem test_wf_setduty_channel : (Instr.setduty 65536 0 0).wf = false := by decide
theorem test_wf_setduty_on : (Instr.setduty 0 65536 0).wf = false := by decide
theorem test_wf_setduty_off : (Instr.setduty 0 0 65536).wf = false := by decide
theorem test_wf_servo_channel : (Instr.servo 65536 0).wf = false := by decide
theorem test_wf_servo_degree : (Instr.servo 0 65536).wf = false := by decide
theorem test_wf_motor_index : (Instr.motor 65536 0).wf = false := by decide
theorem test_wf_motor_speed_low : (Instr.motor 0 (-32769)).wf = false := by decide
theorem test_wf_motor_speed_high : (Instr.motor 0 32768).wf = false := by decide

/-! ## Decoding: words written out from the fields of 30_encoding R91, `op z a b c` -/

theorem test_decode_query : decode (0x01#8 ++ 0x00#8 ++ 0x0000#16 ++ 0x0001#16 ++ 0x0000#16) = .ok (.query 0 1) := by decide
theorem test_decode_rdreg : decode (0x02#8 ++ 0x00#8 ++ 0x0007#16 ++ 0x0000#16 ++ 0x0000#16) = .ok (.rdreg 7) := by decide
theorem test_decode_init : decode (0x10#8 ++ 0x00#8 ++ 0x0000#16 ++ 0x0000#16 ++ 0x0000#16) = .ok .init := by decide
theorem test_decode_setfreq : decode (0x11#8 ++ 0x00#8 ++ 0x003C#16 ++ 0x0000#16 ++ 0x0000#16) = .ok (.setfreq 60) := by decide
theorem test_decode_setduty : decode (0x12#8 ++ 0x00#8 ++ 0x0003#16 ++ 0x0BB8#16 ++ 0x0800#16) = .ok (.setduty 3 3000 2048) := by
  decide
theorem test_decode_servo : decode (0x13#8 ++ 0x00#8 ++ 0x0002#16 ++ 0x005A#16 ++ 0x0000#16) = .ok (.servo 2 90) := by decide
/-- V-M7: field `b` is two's complement. -/
theorem test_decode_motor : decode 0x1400000280000000 = .ok (.motor 2 (-32768)) := by decide
/-- V-Q4: an unused operand that is not 0. -/
theorem test_decode_unused : decode 0x0100000000000001 = .error .unusedOperandNotZero := by decide
/-- R95: the reserved field `z`. -/
theorem test_decode_reserved : decode 0x1001000000000000 = .error .reservedFieldNotZero := by decide
/-- R95: an opcode between two rows. -/
theorem test_decode_opcode : decode 0x1500000000000000 = .error .unassignedOpcode := by decide
/-- R106, R107: `QUERY 0, DHT22` and `MOTOR 1, -255`. -/
theorem test_assemble :
    (assemble "QUERY" [.num 0, .name "DHT22"]).map encode = some 0x0100000000010000 ∧
    (assemble "MOTOR" [.num 1, .num (-255)]).map encode = some 0x14000001FF010000 ∧
    assemble "INIT" [.num 0] = none := by decide

/-! ## Small states -/

/-- The parameter values of 95_test_vectors section 1. -/
def testParams : Params := ⟨⟨1000, 1, false, 0x40, 0x00, 0xFE, 0x06, 0x00, 4, 16⟩, by decide⟩

/-- A block with a single motor and a speed scale of 1. -/
def oneMotor : Params := ⟨⟨1000, 1, false, 0x40, 0x00, 0xFE, 0x06, 0x00, 1, 1⟩, by decide⟩

/-- A block right after reset with these parameters. -/
def idle : State := { State.reset with par := testParams }

/-- The host offers `w` for the next tick. -/
def offering (w : CmdWord) (s : State) : State := { s with env := { s.env with offers := [⟨0, w⟩] } }

/-- An answer in the tick of the request. -/
def atOnce (data : Byte) : I2cAnswer := ⟨some 0, false, data⟩

/-- A transport that answers at once, reads giving these bytes in turn. -/
def answering (bytes : List Byte) (s : State) : State := { s with env := { s.env with answers := bytes.map atOnce } }

/-- The block after `INIT`, idle. -/
def ready : State := { idle with inited := true, cfgFreq := 50, cfgPrescale := 121 }

/-- What a property of the next state says of a step. -/
def Next (s : State) (p : State → Bool) : Bool :=
  match step s with
  | .next t => p t
  | .fault _ => false
  | .refused _ => false

/-- The payloads requested in a tick. -/
def payloads (s : State) : List (BitVec 40) := s.i2cReq.map (·.data)

/-- A QUERY of line 0 in the last tick before its 40th sample, FRAME all but the last bit of 32 00 18 00 4A (V-A1). -/
def lastSample : State :=
  { idle with
    st := .bitSampling
    phase := .bitDelay
    bitIdx := 39
    tmr := 27
    cmd := 0x0100000000000000
    frame := #v[false, false, true, true, false, false, true, false, false, false, false, false, false, false, false, false,
      false, false, false, true, true, false, false, false, false, false, false, false, false, false, false, false,
      false, true, false, false, true, false, true, false]
    env := { Env.empty with now := 5, lines := [⟨0, 0, some false⟩] } }

/-! ## One tick per test -/

/-- V-Q1 and R146: RangeError(0), and VALID is cleared. -/
theorem test_query_range : Next (offering 0x0100000100000000 { idle with valid := true }) (fun t =>
    t.rsp == some 0x0400000000 && !t.valid && t.sdOe == []) = true := by decide
/-- V-T1, V-D1: the 40th sample gives the reading. -/
theorem test_query_reading : Next lastSample (fun t =>
    t.rsp == some 0x0000000000 && t.rb == ⟨0x32, 0x00, 0x18, 0x00, 0x4A⟩ && t.hum == 5000#32 && t.temp == 2400#32 &&
      t.valid && t.st == .idle) = true := by decide
/-- 95_test_vectors 3.7: CFG_ADDR. -/
theorem test_rdreg_addr : Next (offering 0x0200000500000000 idle) (fun t => t.rsp == some 0x0000000040) = true := by decide
/-- 95_test_vectors 3.7: no register 8. -/
theorem test_rdreg_range : Next (offering 0x0200000800000000 idle) (fun t => t.rsp == some 0x0400000000) = true := by decide
/-- V-I1: transactions #0 to #4 in the tick of acceptance, then the oscillator wait. -/
theorem test_init_first : Next (answering [1, 0, 1, 1, 1] (offering 0x1000000000000000 idle)) (fun t =>
    payloads t == [0x0000, 0x00, 0x1000, 0x79FE, 0x0000] && t.phase == .oscWait && !t.inited) = true := by decide
/-- V-I3: nothing to do. -/
theorem test_init_again : Next (offering 0x1000000000000000 ready) (fun t =>
    t.rsp == some 0x0000000000 && payloads t == []) = true := by decide
/-- V-I4: transactions #0 to #3. -/
theorem test_setfreq_first : Next (answering [0xA1, 0, 0, 0] (offering 0x1100003C00000000 ready)) (fun t =>
    payloads t == [0x00, 0xB100, 0x65FE, 0xA100] && t.phase == .oscWait) = true := by decide
/-- V-P3: 23 Hz has no prescale; no transaction even with INITED = 0. -/
theorem test_setfreq_range : Next (offering 0x1100001700000000 idle) (fun t =>
    t.rsp == some 0x0400000000 && payloads t == []) = true := by decide
/-- V-U4: W[22 B8 0B E8 03]. -/
theorem test_setduty_write : Next (answering [0] (offering 0x120000070BB803E8 ready)) (fun t =>
    payloads t == [0x03E80BB822] && t.rsp == some 0x0000000000) = true := by decide
/-- V-U8: the first illegal operand wins. -/
theorem test_setduty_range : Next (offering 0x1200001013881388 ready) (fun t => t.rsp == some 0x0400000000) = true := by
  decide
/-- V-S6: 491, truncated: W[0E 00 00 EB 01]. -/
theorem test_servo_write : Next (answering [0] (offering 0x1300000200B40000 ready)) (fun t =>
    payloads t == [0x01EB00000E]) = true := by decide
/-- V-S7: RangeError(1). -/
theorem test_servo_range : Next (offering 0x1300000200B50000 ready) (fun t => t.rsp == some 0x0400000001) = true := by decide
/-- V-M2: backward, the driven channel first: W[0A 00 00 40 06], W[06 00 00 00 00]. -/
theorem test_motor_backward : Next (answering [0, 0] (offering 0x14000004FF9C0000 ready)) (fun t =>
    payloads t == [0x064000000A, 0x0000000006]) = true := by decide
/-- V-M7: the magnitude of −32768 is clamped. -/
theorem test_motor_clamp : Next (answering [0, 0] (offering 0x1400000280000000 ready)) (fun t =>
    payloads t == [0x0FFF00001A, 0x0000000016]) = true := by decide

/-! ## Witnesses: a concrete state and operands that meet all the hypotheses of each obligation -/

/-- The idle block meets the invariant. -/
theorem idle_ok : StateOk idle := by
  refine ⟨trivial, ⟨fun h => ?_, fun _ => rfl⟩, ⟨List.Pairwise.nil, fun L h => ?_, fun _ => rfl⟩, fun h => ?_,
    ⟨.inl ⟨rfl, rfl⟩, fun h => ?_⟩, fun _ => rfl⟩
  · cases h.1
  · cases h
  · cases h
  · cases h

/-- Whatever an idle block is offered, it meets the invariant. -/
theorem offering_ok (w : CmdWord) : StateOk (offering w idle) :=
  ⟨idle_ok.control, idle_ok.lines, idle_ok.pullups, idle_ok.reading, idle_ok.config, idle_ok.quiet⟩

theorem offering_accepts (w : CmdWord) : (offering w idle).accepts w :=
  ⟨rfl, fun h => (by cases h), 0, [], rfl, Nat.zero_le _⟩

theorem witness_DecodeUndoesEncode :
    (Instr.query 65535 65535).wf = true ∧ (Instr.rdreg 65535).wf = true ∧ Instr.init.wf = true ∧
    (Instr.setfreq 65535).wf = true ∧ (Instr.setduty 65535 65535 65535).wf = true ∧ (Instr.servo 65535 65535).wf = true ∧
    (Instr.motor 65535 32767).wf = true ∧ (Instr.motor 0 (-32768)).wf = true := by decide

theorem witness_EncodeUndoesDecode : decode 0x14000001FF010000 = .ok (.motor 1 (-255)) := by decide

theorem witness_StepRunsAcceptedCommand :
    ∃ (s : State) (w : CmdWord) (i : Instr), s.accepts w ∧ decode w = .ok i ∧ i = .servo 2 90 :=
  ⟨_, 0x13000002005A0000, .servo 2 90, offering_accepts _, by decide, rfl⟩

theorem witness_StepContinuesCommandInProgress :
    lastSample.st ≠ .idle ∧ lastSample.env.now + 1 ∉ lastSample.env.rstTicks ∧
      decode lastSample.cmd = .ok (.query 0 0) := by decide

theorem witness_IllegalWordChangesNothing :
    (offering 0x0100000000000001 idle).phase = .none ∧ (offering 0x0100000000000001 idle).accepts 0x0100000000000001 ∧
      selectedMnemonics 0x0100000000000001 = [] := ⟨rfl, offering_accepts _, by decide⟩

/-- One idle block is offered nothing; another is offered a word too late by one tick. -/
theorem witness_IdleTickChangesNothing :
    (idle.st = .idle ∧ idle.env.now + 1 ∉ idle.env.rstTicks ∧ ∀ o ∈ idle.env.offers.head?, idle.env.now + 1 < o.tick) ∧
    ∀ o ∈ ({ idle.env with offers := [⟨2, 0⟩] } : Env).offers.head?, idle.env.now + 1 < o.tick := by decide

theorem witness_ResetTickResetsEverything :
    ({ lastSample with env := { lastSample.env with rstTicks := [6] } } : State).env.now + 1 ∈
      ({ lastSample with env := { lastSample.env with rstTicks := [6] } } : State).env.rstTicks ∧
    ({ lastSample with env := { lastSample.env with rstTicks := [6] } } : State).env.now + 2 ∉
      ({ lastSample with env := { lastSample.env with rstTicks := [6] } } : State).env.rstTicks := by decide

/-- Every command with operands, at the first value outside each legal set. -/
theorem witness_RangeErrorHasNoOtherEffect :
    idle.st = .idle ∧ idle.phase = .none ∧
    illegalOperand idle.par (.query 1 0) = some 0 ∧ illegalOperand idle.par (.query 0 2) = some 1 ∧
    illegalOperand idle.par (.rdreg 8) = some 0 ∧
    illegalOperand idle.par (.setfreq 23) = some 0 ∧ illegalOperand idle.par (.setfreq 12208) = some 0 ∧
    illegalOperand idle.par (.setduty 16 0 0) = some 0 ∧ illegalOperand idle.par (.setduty 0 4096 0) = some 1 ∧
    illegalOperand idle.par (.setduty 0 0 4096) = some 2 ∧
    illegalOperand idle.par (.servo 16 0) = some 0 ∧ illegalOperand idle.par (.servo 0 181) = some 1 ∧
    illegalOperand idle.par (.motor 0 0) = some 0 ∧ illegalOperand idle.par (.motor 5 0) = some 0 := by decide

theorem witness_EndingStatuses :
    (∃ t w, exec (.query 1 0) idle = .next t ∧ idle.rsp = none ∧ t.rsp = some w) ∧
      ∃ i : Instr, i.mnemonic = "SERVO" ∧ mayEndWith i .transportError = true :=
  ⟨⟨_, _, rfl, rfl, rfl⟩, .servo 0 0, by decide⟩

theorem witness_ResponsesCarryListedCodes : ∃ t w, step (offering 0x1600000000000000 idle) = .next t ∧ t.rsp = some w :=
  ⟨_, _, rfl, rfl⟩

theorem witness_ResponseExactlyAtCommandEnd :
    (∃ t, step (offering 0x0200000000000000 idle) = .next t ∧ t.rspValid = true) ∧
      ∃ t, step idle = .next t ∧ t.rspValid = false := ⟨⟨_, rfl, rfl⟩, _, rfl, rfl⟩

/-- Both ends of the legal set of the family, at the one line there is. -/
theorem witness_QueryAcceptanceStartsRequest :
    idle.st = .idle ∧ 0 < idle.par.nLines ∧ (0 : Nat) ≤ 1 ∧ (1 : Nat) ≤ 1 := by decide

/-- An accepted QUERY of line 0 and no reset ever. -/
theorem witness_RequestPulseLasts18000Ticks :
    ∃ (s : State) (w : CmdWord), StateOk s ∧ s.accepts w ∧ decode w = .ok (.query 0 1) ∧ 0 < s.par.nLines ∧ s.noResetFor 18021 :=
  ⟨_, 0x0100000000010000, offering_ok _, offering_accepts _, by decide, by decide, fun t h => by cases h⟩

theorem witness_QueryRefinesPseudocode :
    ∃ (s : State) (w : CmdWord), StateOk s ∧ s.accepts w ∧ decode w = .ok (.query 0 0) ∧ 0 < s.par.nLines ∧ s.env.rstTicks = [] :=
  ⟨_, 0x0100000000000000, offering_ok _, offering_accepts _, by decide, by decide, rfl⟩

theorem witness_QueryAlwaysEnds :
    ∃ (s : State) (w : CmdWord), StateOk s ∧ s.accepts w ∧ decode w = .ok (.query 0 0) ∧
      s.noResetFor (19140 + 82 * (s.par.edgeTimeout - 1) + 1) :=
  ⟨_, 0x0100000000000000, offering_ok _, offering_accepts _, by decide, fun t h => by cases h⟩

/-- A QUERY of line 0 in one of its phases, the timer at `tmr`, the line at `level`. -/
def waiting (st : St) (phase : Phase) (tmr : Nat) (level : Bool) : State :=
  { idle with
    st := st
    phase := phase
    tmr := BitVec.ofNat 32 tmr
    cmd := 0x0100000000000000
    env := { Env.empty with lines := [⟨0, 0, some level⟩] } }

/-- Each wait one tick before its last look, and each delay one tick before its end. -/
theorem witness_QueryWaitsOnlyCountTicks :
    ((waiting .awaitAck .ackWaitLow 998 true).wait? = some (false, 0) ∧
      (waiting .awaitAck .ackWaitLow 998 true).sample 0 ≠ false ∧
      (waiting .awaitAck .ackWaitLow 998 true).tmr.toNat + 1 < (waiting .awaitAck .ackWaitLow 998 true).par.edgeTimeout) ∧
    (waiting .requestSent .reqLow 17998 true).tmr.toNat + 1 < 18000 ∧
    (waiting .requestSent .reqWait 18 true).tmr.toNat + 1 < 20 ∧
    (waiting .bitSampling .bitDelay 26 true).tmr.toNat + 1 < 28 := by decide

/-- Each of the four waits at its last tick. -/
theorem witness_WaitExpiresWithTimeout :
    (waiting .awaitAck .ackWaitLow 999 true).wait? = some (false, 0) ∧
    (waiting .awaitAck .ackWaitHigh 999 true).wait? = some (true, 1) ∧
    (waiting .bitSampling .bitWaitFall 999 true).wait? = some (false, 2) ∧
    (waiting .bitSampling .bitWaitRise 999 true).wait? = some (true, 3) ∧
    (waiting .awaitAck .ackWaitLow 999 true).tmr.toNat + 1 = (waiting .awaitAck .ackWaitLow 999 true).par.edgeTimeout := by
  decide

/-- A witness for each of the four clauses, at the last look. -/
theorem witness_WaitPassesToNextPhase :
    (waiting .awaitAck .ackWaitLow 998 false).tmr.toNat + 1 < (waiting .awaitAck .ackWaitLow 998 false).par.edgeTimeout ∧
    (waiting .awaitAck .ackWaitLow 998 false).sample 0 = false ∧
    (waiting .awaitAck .ackWaitHigh 998 true).sample 0 = true ∧
    (waiting .bitSampling .bitWaitFall 998 false).sample 0 = false ∧
    (waiting .bitSampling .bitWaitRise 998 true).sample 0 = true := by decide

/-- The sample of slot 0 and the last sample that is not the 40th. -/
theorem witness_SampleDecidesTheBit :
    (waiting .bitSampling .bitDelay 27 true).tmr.toNat + 1 = 28 ∧
    (waiting .bitSampling .bitDelay 27 true).bitIdx.toNat < 39 ∧ ({ lastSample with bitIdx := 38 } : State).bitIdx.toNat < 39 := by
  decide

/-- V-C1: the frame of V-T1 passes the checksum. -/
theorem witness_QueryCompletesWithReading :
    lastSample.st = .bitSampling ∧ lastSample.phase = .bitDelay ∧ lastSample.tmr.toNat + 1 = 28 ∧
    lastSample.bitIdx.toNat = 39 ∧
    assembleFrame (lastSample.frame.setIfInBounds 39 (lastSample.sample 0)) = ⟨0x32, 0x00, 0x18, 0x00, 0x4A⟩ ∧
    (0x32 + 0x00 + 0x18 + 0x00) % 256 = 0x4A := by decide

/-- V-C6: with the last bit read as 1 it does not. -/
theorem witness_QueryRejectsBadChecksum :
    assembleFrame (({ lastSample with env := { lastSample.env with lines := [⟨0, 0, some true⟩] } } : State).frame.setIfInBounds
      39 (({ lastSample with env := { lastSample.env with lines := [⟨0, 0, some true⟩] } } : State).sample 0)) =
        ⟨0x32, 0x00, 0x18, 0x00, 0x4B⟩ ∧
    (0x32 + 0x00 + 0x18 + 0x00) % 256 ≠ 0x4B := by decide

/-- Bits 7 and 8, on either side of a byte boundary (V-A5, V-A6). -/
theorem witness_FramePackingIsByPosition : 7 < 40 ∧ 1 < 5 ∧ 7 / 8 ≠ 1 ∧ 8 < 40 ∧ 0 < 5 ∧ 8 / 8 ≠ 0 := by decide

theorem witness_SingleBitFlipIsRejected : 7 < 8 ∧ (⟨0x32, 0x00, 0x18, 0x00, 0x4A⟩ : ResultBytes).accepted = true := by
  decide

theorem witness_DecodeFormulas : (⟨0x00, 0x00, 0x80, 0x00, 0x80⟩ : ResultBytes).rb2 = 0x80 ∧ (1 : Nat) ≤ 1 := by decide

theorem witness_QueryFrame : ∃ t, exec (.query 0 0) lastSample = .next t ∧ t.rb ≠ lastSample.rb ∧ t.hum ≠ lastSample.hum :=
  ⟨_, rfl, by decide, by decide⟩

/-- V-T8, the fastest possible query, with `EDGE_TIMEOUT = 2`: its 40th sample is at 19182. -/
def fastLevel (t : Nat) : Bool := t == 18021 || (decide (18023 ≤ t) && decide ((t - 18023) % 29 < 28))

theorem witness_SampledQueryDuration :
    1 ≤ 2 ∧ queryTimeline fastLevel 2 0 (Vector.replicate 40 false) = .sampled (Vector.replicate 40 false) 19182 := by
  decide +kernel

theorem witness_RdregAnswersRegister : idle.st = .idle ∧ idle.phase = .none ∧ 7 < 8 := by decide

theorem witness_InitIsIdempotent : ready.st = .idle ∧ ready.inited = true := by decide

theorem witness_LazyInitialisationComesFirst :
    (answering [1, 2, 3, 4, 5] idle).st = .idle ∧ (answering [1, 2, 3, 4, 5] idle).inited = false ∧
    pwmBody idle.par (.setfreq 1000) = some (setfreqBody 1000) ∧ illegalOperand idle.par (.setfreq 1000) = none ∧
    (answering [1, 2, 3, 4, 5] idle).env.answers = atOnce 1 :: atOnce 2 :: atOnce 3 :: atOnce 4 :: atOnce 5 :: [] ∧
    ∀ a ∈ [atOnce 1, atOnce 2, atOnce 3, atOnce 4, atOnce 5], a.latency = some 0 ∧ a.err = false := by decide

/-- A transaction whose answer, with or without an error, arrives in the next tick. -/
def transferring (cmd : CmdWord) (inited : Bool) (seq : BitVec 4) (txn : Byte) (err : Bool) : State :=
  { idle with
    st := .pwmSeq
    phase := .i2cWait
    inited := inited
    seq := seq
    txn := txn
    cmd := cmd
    env := { Env.empty with xfer := some ⟨false, some 1, err, 0⟩ } }

theorem witness_InitCompletes :
    let s := transferring 0x1000000000000000 false 7 6 false
    s.st = .pwmSeq ∧ s.phase = .i2cWait ∧ s.inited = false ∧ s.seq = 7 ∧ s.env.xfer = some ⟨false, some 1, false, 0⟩ := by
  decide

theorem witness_SetfreqCompletes :
    let s := transferring 0x1100003C00000000 true 6 5 false
    s.st = .pwmSeq ∧ s.phase = .i2cWait ∧ s.inited = true ∧ s.seq = 6 ∧
      s.env.xfer = some ⟨false, some 1, false, 0⟩ ∧ prescale? 60 = some 101 := by decide

/-- The largest legal operands. -/
theorem witness_SetdutyWritesOneChannel :
    let s := answering [0] ready
    s.st = .idle ∧ s.inited = true ∧ 15 ≤ 15 ∧ 4095 ≤ 4095 ∧ s.env.answers = atOnce 0 :: [] ∧
      (atOnce 0).latency = some 0 ∧ (atOnce 0).err = false := by decide

theorem witness_ServoWritesTruncatedTicks :
    let s := answering [0] ready
    s.st = .idle ∧ s.inited = true ∧ 15 ≤ 15 ∧ 180 ≤ 180 ∧ s.env.answers = atOnce 0 :: [] ∧
      (atOnce 0).latency = some 0 ∧ (atOnce 0).err = false := by decide

/-- The first and the last motor. -/
theorem witness_MotorDrivesThenZeroes :
    let s := answering [0, 0] ready
    s.st = .idle ∧ s.inited = true ∧ 1 ≤ s.par.maxMotor ∧ 1 ≤ 4 ∧ 4 ≤ s.par.maxMotor ∧
      s.env.answers = atOnce 0 :: atOnce 0 :: [] ∧ (atOnce 0).latency = some 0 ∧ (atOnce 0).err = false := by decide

theorem witness_TransportErrorEndsCommand :
    let s := transferring 0x1300000200000000 true 1 1 true
    pwmBody s.par (.servo 2 0) = some (servoBody 2 0) ∧ s.st = .pwmSeq ∧ s.phase = .i2cWait ∧
      s.env.xfer = some ⟨false, some 1, true, 0⟩ ∧ 1 ≤ s.txn.toNat := by decide

/-- A witness for each clause: no answer ever, an answer two ticks away, the last tick of the oscillator wait but one. -/
theorem witness_PwmWaitsChangeNothing :
    let s := transferring 0x1300000200000000 true 1 1 true
    pwmBody s.par (.servo 2 0) = some (servoBody 2 0) ∧ s.st = .pwmSeq ∧
    ({ s with env := { s.env with xfer := some ⟨false, none, false, 0⟩ } } : State).env.xfer =
      some ⟨false, none, false, 0⟩ ∧
    ({ s with env := { s.env with xfer := some ⟨false, some 2, false, 0⟩ } } : State).env.xfer =
      some ⟨false, some (0 + 2), false, 0⟩ ∧
    ({ s with phase := .oscWait, tmr := 4998 } : State).tmr.toNat + 1 < 5000 := by decide

theorem witness_PwmFrame :
    pwmBody ready.par (.motor 1 5) = some (motorBody testParams 1 5) ∧ ready.inited = true ∧
      (Instr.motor 1 5).mnemonic ≠ "SETFREQ" ∧ ∃ t, exec (.motor 1 5) (answering [0, 0] ready) = .next t :=
  ⟨rfl, rfl, by decide, _, rfl⟩

theorem witness_PwmRefinesPseudocode :
    ∃ (s : State) (w : CmdWord), StateOk s ∧ s.accepts w ∧ decode w = .ok (.servo 2 90) ∧
      pwmBody s.par (.servo 2 90) = some (servoBody 2 90) ∧ illegalOperand s.par (.servo 2 90) = none ∧
      s.env.rstTicks = [] :=
  ⟨_, 0x13000002005A0000, offering_ok _, offering_accepts _, by decide, rfl, by decide, rfl⟩

theorem witness_InitialisationTransactions :
    ∀ n, n < 6 → (atOnce 0).latency = some 0 ∧ (atOnce 0).err = false := by decide

theorem witness_PrescaleIsNearestInteger :
    prescale? 24 = some 253 ∧ prescale? 12207 = some 0 := by decide

theorem witness_ServoTicksInRange : (0 : Nat) ≤ 180 ∧ (180 : Nat) ≤ 180 := by decide

/-- Two motors at the ends of the index range, a block with a single motor, and the products 4095 and 4096 on both sides of
the clamp. -/
theorem witness_MotorPairsAreDisjoint :
    (1 ≤ 1 ∧ 1 ≤ testParams.maxMotor ∧ 1 ≤ 4 ∧ 4 ≤ testParams.maxMotor ∧ 1 ≠ 4) ∧
    (1 ≤ 1 ∧ 1 ≤ oneMotor.maxMotor ∧ oneMotor.maxMotor = 1) ∧
    ((4095 : Int).natAbs * oneMotor.speedScale = 4095 ∧ (-4095 : Int).natAbs * oneMotor.speedScale ≤ 4095) ∧
    ((256 : Int).natAbs * testParams.speedScale = 4096 ∧ 4095 < (-256 : Int).natAbs * testParams.speedScale) := by decide

/-- 43_actuator_mapping R217: the clamp at the products 4095, 4096 (which would wrap to 0) and 4097. -/
theorem test_motor_magnitude_clamps :
    motorMagnitude oneMotor (-4095) = 4095 ∧ motorMagnitude testParams 256 = 4095 ∧
      motorMagnitude oneMotor 4097 = 4095 := by decide

theorem witness_BytesInBusOrder : 4095 ≤ 4095 ∧ (List.replicate 5 (0xFF : Byte)).length ≤ 5 ∧ 4 < 5 := by decide

theorem witness_ChannelAddressesAreSafe : 15 ≤ 15 ∧ 3 ≤ 3 := by decide

theorem witness_DrivenLineReadsLow : (idle.drive0 0).sdOeAt 0 = true ∧ 1 ≠ 0 := by decide

theorem witness_StepKeepsInvariant : StateOk idle ∧ ∃ t, step idle = .next t := ⟨idle_ok, _, rfl⟩

theorem witness_StepNeverStops : StateOk idle := idle_ok

/-- VALID rises in the tick of the last sample, and falls in the tick in which a QUERY is accepted. -/
theorem witness_ReadingBelongsToTheDecoder :
    (∃ t, step lastSample = .next t ∧ lastSample.env.now + 1 ∉ lastSample.env.rstTicks ∧ lastSample.valid = false ∧
      t.valid = true) ∧
    ∃ t, step (offering 0x0100000000000000 { idle with valid := true }) = .next t ∧ t.valid = false :=
  ⟨⟨_, rfl, by decide, rfl, rfl⟩, _, rfl, rfl⟩

theorem witness_InitedIsSticky :
    ∃ t, step ({ ready with env := { ready.env with rstTicks := [1] } } : State) = .next t ∧ ready.inited = true ∧
      t.inited = false := ⟨_, rfl, rfl, rfl⟩

/-- The tick of acceptance of the first INIT, with a transport that answers at once, issues five requests. -/
theorem witness_RequestsAreLegal :
    ∃ s t : State, StateOk s ∧ step s = .next t ∧ t.i2cReq.length = 5 :=
  ⟨answering [1, 2, 3, 4, 5] (offering 0x1000000000000000 idle), _,
    ⟨idle_ok.control, idle_ok.lines, idle_ok.pullups, idle_ok.reading, idle_ok.config, idle_ok.quiet⟩, rfl, by decide⟩

/-- In that tick the fourth request writes the prescale register. -/
theorem witness_PrescaleWriteFollowsSleep :
    ∃ (s t : State) (pre post : List I2cRequest) (r : I2cRequest), StateOk s ∧ step s = .next t ∧ t.i2cReq = pre ++ r :: post ∧ IsPrescaleWrite s.par r ∧
      pre.length = 3 :=
  ⟨answering [1, 2, 3, 4, 5] (offering 0x1000000000000000 idle), _,
    [writeRequest 0x40 0x00 [0x00], readRequest 0x40 0x00, writeRequest 0x40 0x00 [0x12]],
    [writeRequest 0x40 0x00 [0x02]], writeRequest 0x40 0xFE [121],
    ⟨idle_ok.control, idle_ok.lines, idle_ok.pullups, idle_ok.reading, idle_ok.config, idle_ok.quiet⟩, rfl, by decide,
    ⟨121, rfl⟩, rfl⟩

/-- Two idle blocks that differ in a left-over frame. -/
theorem witness_LeftoversNeverShow :
    ∃ s t s' : State, StateOk s ∧ StateOk t ∧ s.scrub = t.scrub ∧ step s = .next s' ∧ s ≠ t :=
  ⟨idle, { idle with frame := Vector.replicate 40 true }, _, idle_ok,
    ⟨idle_ok.control, idle_ok.lines, idle_ok.pullups, idle_ok.reading, idle_ok.config, idle_ok.quiet⟩, rfl, rfl, by decide⟩

end Sys2Proof.Tests
end

section
/-! PROOFS. The rules that hold of every step whatever the state: what a tick of any command can be (`exec_cases`),
what a register-write sequence leaves alone (`SeqFrame`), when a response is sent, and who writes the reading, INITED
and the parameters. -/

namespace Sys2Proof.Machine

open Sys2Proof.Config

/-! ## A tick of any command -/

theorem exec_query (L f : Nat) (s : State) : exec (.query L f) s = execQuery L f s := rfl

theorem exec_rdreg (r : Nat) (s : State) : exec (.rdreg r) s = execRdreg r s := rfl

/-- RDREG only ends: it runs in IDLE and answers in its tick (41_register_read R172). -/
theorem execRdreg_ends {r : Nat} {s t : State} (h : execRdreg r s = .next t) :
    s.st = .idle ∧ ∃ x v, t = s.endCommand x v := by
  unfold execRdreg at h
  split at h
  · rename_i hst
    cases h
    refine ⟨hst, ?_⟩
    split
    · exact ⟨_, _, rfl⟩
    · exact ⟨_, _, rfl⟩
  · cases h

/-- All a tick of a command can be, unit by unit. -/
theorem exec_cases {i : Instr} {s t : State} (h : exec i s = .next t) :
    (∃ L f, i = .query L f ∧ QueryTick L f s t) ∨
    (s.st = .idle ∧ ∃ x v, t = s.endCommand x v) ∨
    (∃ body, pwmBody s.par i = some body ∧ PwmTick (illegalOperand s.par i) body s t) := by
  rcases unit_cases i s.par with ⟨L, f, rfl⟩ | ⟨r, rfl⟩ | ⟨body, hb⟩
  · exact .inl ⟨L, f, rfl, execQuery_tick h⟩
  · exact .inr (.inl (execRdreg_ends h))
  · rw [exec_of_pwmBody hb] at h
    exact .inr (.inr ⟨body, hb, execPwm_tick h⟩)

/-! ## What a register-write sequence leaves alone -/

/-- The state with all that a register-write sequence may write blanked: what is left is what it leaves alone. -/
def State.besideSeq (s : State) : State :=
  { s with
    st := .idle, phase := .none, tmr := 0, seq := 0, txn := 0, inited := false, cfgFreq := 0, cfgPrescale := 0
    oldMode := 0, rsp := none, i2cReq := [], env := { s.env with answers := [], serial := 0, xfer := none } }

/-- From `s` to `t` nothing but a sequence's own registers and ports changes, and INITED does not fall. -/
structure SeqFrame (s t : State) : Prop where
  beside : t.besideSeq = s.besideSeq
  inited : s.inited = true → t.inited = true

theorem SeqFrame.trans {s t u : State} (h : SeqFrame s t) (k : SeqFrame t u) : SeqFrame s u :=
  ⟨k.beside.trans h.beside, fun hi => k.inited (h.inited hi)⟩

/-- The state in which a flow leaves the sequence. -/
def Flow.state : Flow → State
  | .go s => s
  | .stop s => s

theorem ActOutcome.keepsFrame {a : Action} {s : State} {f : Flow} (h : ActOutcome a s f) : SeqFrame s f.state := by
  cases h with
  | marks => exact ⟨rfl, fun _ => rfl⟩
  | _ => exact ⟨rfl, id⟩

theorem State.runActions_keepsFrame (as : List Action) (s : State) : SeqFrame s (s.runActions as) := by
  refine State.runActions_ind (Q := fun _ u => SeqFrame s u) ?_ ?_ ?_ as s ⟨rfl, id⟩
  · intro a rest u t hu ho
    exact (hu.trans (u := u.nextSeq) ⟨rfl, id⟩).trans ho.keepsFrame
  · intro a rest u t hu ho
    exact (hu.trans (u := u.nextSeq) ⟨rfl, id⟩).trans ho.keepsFrame
  · intro u hu
    exact hu.trans ⟨rfl, id⟩

theorem PwmTick.keepsFrame {illegal : Option Nat} {body : List Action} {s t : State} (h : PwmTick illegal body s t) :
    SeqFrame s t := by
  cases h with
  | accepted => exact .trans (t := s.startSeq) ⟨rfl, id⟩ (State.runActions_keepsFrame _ _)
  | answered x => exact .trans (t := s.answered x) ⟨rfl, id⟩ (State.runActions_keepsFrame _ _)
  | stable =>
    exact .trans (t := { s with tmr := s.tmr + 1, phase := .none }) ⟨rfl, id⟩ (State.runActions_keepsFrame _ _)
  | _ => exact ⟨rfl, id⟩

/-! ## When a response is sent -/

/-- A sequence answers in a tick iff it ends in it. -/
theorem State.resumeSeq_response {body : List Action} {s : State} (hst : s.st = .pwmSeq) (hr : s.rsp = none) :
    (s.resumeSeq body).rsp.isSome = true ↔ (s.resumeSeq body).st = .idle := by
  refine State.runActions_ind (Q := fun _ u => u.st = .pwmSeq ∧ u.rsp = none)
    (R := fun t => t.rsp.isSome = true ↔ t.st = .idle) ?_ ?_ ?_ _ s ⟨hst, hr⟩
  · intro a rest u t hu ho
    cases ho <;> exact hu
  · rintro a rest u t ⟨hst, hr⟩ ho
    cases ho with
    | awaits req => simp [State.awaiting, State.requested, State.nextSeq, hst, hr]
    | fails req => simp [State.failedAtOnce]
    | waits => simp [State.nextSeq, hst, hr]
  · intro u _
    simp [State.respondOk]

theorem PwmTick.response {illegal : Option Nat} {body : List Action} {s t : State} (h : PwmTick illegal body s t)
    (hr : s.rsp = none) : t.rsp.isSome = true ↔ t.st = .idle := by
  cases h with
  | accepted => exact State.resumeSeq_response rfl hr
  | answered x n hst => exact State.resumeSeq_response hst hr
  | stable hst => exact State.resumeSeq_response hst hr
  | outOfRange | failed => simp
  | unanswered hst | counted _ _ hst | waited hst => simp [hst, hr]

theorem QueryTick.response {L f : Nat} {s t : State} (h : QueryTick L f s t) (hr : s.rsp = none) :
    t.rsp.isSome = true ↔ t.st = .idle := by
  cases h with
  | outOfRange | timedOut | read | mismatched => simp
  | accepted | firstLooked | ackEnded => simp [hr]
  | counted hst | released hst | ackStarted hst | fell hst | rose hst | sampled hst => simp [hst, hr]

/-- A tick of a command sends a response iff the command ends in it (10_state R42). -/
theorem exec_response {i : Instr} {s t : State} (h : exec i s = .next t) (hr : s.rsp = none) :
    t.rsp.isSome = true ↔ t.st = .idle := by
  rcases exec_cases h with ⟨L, f, -, hq⟩ | ⟨-, x, v, rfl⟩ | ⟨body, -, hp⟩
  · exact hq.response hr
  · simp
  · exact hp.response hr

/-- Settles O15: a reset tick and an idle tick send nothing, a word that spells no command is answered at once, and a
command answers in the tick in which it ends. -/
theorem responseExactlyAtCommandEnd : Obligations.ResponseExactlyAtCommandEnd := by
  intro s t h
  unfold State.rspValid
  rcases step_cases h with ⟨hr, rfl⟩ | ⟨hr, hs, i, -, he⟩ | ⟨-, hs, hna, rfl⟩ | ⟨w, i, ha, -, he⟩ | ⟨w, e, ha, -, rfl⟩
  · simp [hr, State.takeReset, State.reset]
  · rw [exec_response he rfl]
    simp [hr, hs]
  · simp [hs, hna]
  · obtain ⟨-, hr, -⟩ := id ha
    rw [exec_response he rfl]
    exact ⟨fun ht => ⟨hr, ht, .inr ⟨w, ha⟩⟩, fun ht => ht.2.1⟩
  · obtain ⟨-, hr, -⟩ := id ha
    exact iff_of_true rfl ⟨hr, rfl, .inr ⟨w, ha⟩⟩

/-! ## INITED and the parameters -/

theorem QueryTick.par {L f : Nat} {s t : State} (h : QueryTick L f s t) : t.par = s.par := by
  cases h <;> rfl

theorem QueryTick.inited {L f : Nat} {s t : State} (h : QueryTick L f s t) : t.inited = s.inited := by
  cases h <;> rfl

/-- No command changes the parameters or clears INITED. -/
theorem exec_par_inited {i : Instr} {s t : State} (h : exec i s = .next t) :
    t.par = s.par ∧ (s.inited = true → t.inited = true) := by
  rcases exec_cases h with ⟨L, f, -, hq⟩ | ⟨-, x, v, rfl⟩ | ⟨body, -, hp⟩
  · exact ⟨hq.par, fun hi => hq.inited.trans hi⟩
  · exact ⟨rfl, id⟩
  · exact ⟨(congrArg State.par hp.keepsFrame.beside :), hp.keepsFrame.inited⟩

/-- Settles O56: of all a tick can be only a reset clears INITED, and none changes the parameters. -/
theorem initedIsSticky : Obligations.InitedIsSticky := by
  intro s t h
  suffices hk : (s.env.now + 1 ∈ s.env.rstTicks ∨ (s.inited = true → t.inited = true)) ∧ t.par = s.par by
    obtain ⟨hi, hp⟩ := hk
    refine ⟨fun h1 h2 => hi.resolve_right fun h3 => ?_, hp, congrArg (·.i2cAddr) hp⟩
    simp [h3 h1] at h2
  rcases step_cases h with ⟨hr, rfl⟩ | ⟨-, -, i, -, he⟩ | ⟨-, -, -, rfl⟩ | ⟨w, i, -, -, he⟩ | ⟨w, e, -, -, rfl⟩
  · exact ⟨.inl hr, rfl⟩
  · obtain ⟨hp, hi⟩ := exec_par_inited he
    exact ⟨.inr hi, hp⟩
  · exact ⟨.inr id, rfl⟩
  · obtain ⟨hp, hi⟩ := exec_par_inited he
    exact ⟨.inr hi, hp⟩
  · exact ⟨.inr id, rfl⟩

/-! ## The cached reading -/

/-- A tick of QUERY writes the reading only where the 40th sample completes an accepted frame, and clears VALID only at
its acceptance. -/
theorem QueryTick.reading {L f : Nat} {s t : State} (h : QueryTick L f s t) :
    (t.valid = true ∧ t.rb.accepted = true ∧ t.rsp = some (responseWord .ok 0) ∧ s.phase = .bitDelay ∧ s.st ≠ .idle) ∨
    (t.hum = s.hum ∧ t.temp = s.temp ∧ (t.valid = s.valid ∨ t.valid = false ∧ s.st = .idle)) := by
  cases h with
  | outOfRange _ hst | accepted hst => exact .inr ⟨rfl, rfl, .inr ⟨rfl, hst⟩⟩
  | read hst hph _ _ ha => exact .inl ⟨rfl, ha, rfl, hph, by simp [hst]⟩
  | _ => exact .inr ⟨rfl, rfl, .inl rfl⟩

/-- What any command may do to the reading. -/
theorem exec_reading {i : Instr} {s t : State} (h : exec i s = .next t) :
    ((∃ L f, i = .query L f) ∧ s.phase = .bitDelay ∧ s.st ≠ .idle ∧
      t.valid = true ∧ t.rb.accepted = true ∧ t.rsp = some (responseWord .ok 0)) ∨
    (t.hum = s.hum ∧ t.temp = s.temp ∧
      (t.valid = s.valid ∨ t.valid = false ∧ s.st = .idle ∧ ∃ L f, i = .query L f)) := by
  rcases exec_cases h with ⟨L, f, hi, hq⟩ | ⟨-, x, v, rfl⟩ | ⟨body, -, hp⟩
  · rcases hq.reading with ⟨hv, ha, hr, hph, hst⟩ | ⟨hh, ht, hv | ⟨hv, hst⟩⟩
    · exact .inl ⟨⟨L, f, hi⟩, hph, hst, hv, ha, hr⟩
    · exact .inr ⟨hh, ht, .inl hv⟩
    · exact .inr ⟨hh, ht, .inr ⟨hv, hst, L, f, hi⟩⟩
  · exact .inr ⟨rfl, rfl, .inl rfl⟩
  · have hf := hp.keepsFrame.beside
    exact .inr ⟨(congrArg State.hum hf :), (congrArg State.temp hf :), .inl (congrArg State.valid hf :)⟩

/-- Nothing writes the reading and VALID keeps its value: then both halves of `ReadingBelongsToTheDecoder` are empty. -/
theorem reading_unwritten {s t : State} {P Q : Prop} (hh : t.hum = s.hum) (ht : t.temp = s.temp)
    (hv : t.valid = s.valid) :
    (t.hum ≠ s.hum ∨ t.temp ≠ s.temp ∨ (s.valid = false ∧ t.valid = true) → P) ∧
      (s.valid = true → t.valid = false → Q) := by
  rw [hh, ht, hv]
  constructor
  · rintro (h | h | ⟨h0, h1⟩)
    · exact absurd rfl h
    · exact absurd rfl h
    · simp [h0] at h1
  · intro h1 h0
    simp [h0] at h1

/-- Settles O55: outside reset the reading is written by the command in progress only, in a QUERY's last bit delay, and
VALID is cleared only in the tick that accepts a QUERY. -/
theorem readingBelongsToTheDecoder : Obligations.ReadingBelongsToTheDecoder := by
  intro s t h hnr
  rcases step_cases h with ⟨hr, -⟩ | ⟨-, hs, i, hd, he⟩ | ⟨-, -, -, rfl⟩ | ⟨w, i, ha, hd, he⟩ | ⟨w, e, -, -, rfl⟩
  · exact absurd hr hnr
  · rcases exec_reading he with ⟨⟨L, f, rfl⟩, hph, -, hv, hacc, hrsp⟩ | ⟨hh, ht, hv | ⟨-, hst, -⟩⟩
    · exact ⟨fun _ => ⟨hv, hacc, hrsp, L, f, hd, hph⟩, fun _ hf => by simp [hv] at hf⟩
    · exact reading_unwritten hh ht hv
    · exact absurd hst hs
  · exact reading_unwritten rfl rfl rfl
  · rcases exec_reading he with ⟨-, -, hst, -⟩ | ⟨hh, ht, hv | ⟨hv, -, L, f, rfl⟩⟩
    · exact absurd ha.1 hst
    · exact reading_unwritten hh ht hv
    · refine ⟨?_, fun _ _ => ⟨w, L, f, ha, hd⟩⟩
      rintro (h' | h' | ⟨-, h'⟩)
      · exact absurd hh h'
      · exact absurd ht h'
      · simp [hv] at h'
  · exact reading_unwritten rfl rfl rfl

/-! ## Steps of a single case -/

/-- Settles O5: `step_accept`, where the word decodes. -/
theorem stepRunsAcceptedCommand : Obligations.StepRunsAcceptedCommand := by
  intro s w i ha hd
  rw [step_accept ha, hd]

/-- Settles O6: `step_busy`, where CMD decodes. -/
theorem stepContinuesCommandInProgress : Obligations.StepContinuesCommandInProgress := by
  intro s i hs hr hd
  rw [step_busy hs hr]
  unfold continueCommand
  rw [State.nextTick_cmd, hd]

/-- Settles O10: each register as `State.reset` writes it. -/
theorem resetStateHoldsTheSpecsValues : Obligations.ResetStateHoldsTheSpecsValues := by
  refine ⟨rfl, rfl, rfl, rfl, rfl, rfl, rfl, fun k => ?_, rfl, rfl, rfl, rfl, rfl, rfl, rfl, rfl, rfl,
    fun L => ⟨rfl, rfl⟩⟩
  exact Vector.getElem_replicate k.isLt

/-! ## The waits of a register-write sequence -/

theorem execPwm_i2cWait {illegal : Option Nat} {body : List Action} {s : State} (hst : s.st = .pwmSeq)
    (hph : s.phase = .i2cWait) : execPwm illegal body s = .next (s.transferTick (State.resumeSeq body)) := by
  unfold execPwm
  rw [hst, hph]

theorem execPwm_oscWait {illegal : Option Nat} {body : List Action} {s : State} (hst : s.st = .pwmSeq)
    (hph : s.phase = .oscWait) : execPwm illegal body s =
      .next (s.delayTick tOscWait fun s => { s with phase := .none }.resumeSeq body) := by
  unfold execPwm
  rw [hst, hph]

/-- No answer ever comes: the wait changes nothing (60_exceptions R247). -/
theorem State.transferTick_never {next : State → State} {s : State} {x : Transfer} (hx : s.env.xfer = some x)
    (hl : x.left = none) : s.transferTick next = s := by
  unfold State.transferTick
  simp only [hx, hl]

/-- The answer is more than a tick away: its remaining ticks are counted. -/
theorem State.transferTick_later {next : State → State} {s : State} {x : Transfer} {n : Nat}
    (hx : s.env.xfer = some x) (hl : x.left = some (n + 2)) :
    s.transferTick next = { s with env := { s.env with xfer := some { x with left := some (n + 1) } } } := by
  unfold State.transferTick
  simp only [hx, hl]
  exact if_neg (by omega)

/-- Settles O40: a tick of I2C_WAIT before the answer, and a tick of the oscillator delay before its end. -/
theorem pwmWaitsChangeNothing : Obligations.PwmWaitsChangeNothing := by
  intro s i body hb hst
  rw [exec_of_pwmBody hb]
  refine ⟨fun x hph hx hl => ?_, fun x n hph hx hl => ?_, fun hph ht => ?_⟩
  · rw [execPwm_i2cWait hst hph, State.transferTick_never hx hl]
  · rw [execPwm_i2cWait hst hph, State.transferTick_later hx hl]
  · rw [execPwm_oscWait hst hph, State.delayTick_running (n := tOscWait) ht (by decide)]
    rfl

end Sys2Proof.Machine
end

section
/-! PROOFS. The invariant: it holds after a reset, every tick keeps it, and a tick from a state that meets it never
stops. A tick of a register-write sequence is an induction over the actions it runs, with `SeqReady` as what holds
between two of them. -/

namespace Sys2Proof.Machine

open Sys2Proof.Config

/-! ## Building the invariant -/

/-- No line is driven and no transaction is outstanding: the invariant is its other parts. -/
theorem StateOk.ofUndriven {s : State} (hc : ControlOk s) (hph : s.phase ≠ .reqLow) (hoe : s.sdOe = [])
    (hpu : PullupsOk s) (hr : ReadingOk s) (hcf : ConfigOk s) (hx : s.env.xfer = none) : StateOk s :=
  ⟨hc, ⟨fun h => absurd h.2 hph, fun _ => hoe⟩, hpu, hr, hcf, fun _ => hx⟩

/-- The block right after a tick with `rst = 1`. -/
theorem State.takeReset_ok (s : State) : StateOk s.takeReset :=
  .ofUndriven trivial (by simp [State.takeReset, State.reset]) rfl
    ⟨.nil, fun L h => absurd h (List.not_mem_nil), fun _ => rfl⟩ (fun h => Bool.noConfusion h)
    ⟨.inl ⟨rfl, rfl⟩, fun h => Bool.noConfusion h⟩ rfl

/-- Settles O52: the state after reset is what a reset tick leads to. -/
theorem resetMeetsInvariant : Obligations.ResetMeetsInvariant :=
  State.reset.takeReset_ok

/-- A command that ends where no line is driven and no transaction is outstanding. -/
theorem StateOk.endCommand {s : State} (hoe : s.sdOe = []) (hpu : PullupsOk s) (hr : ReadingOk s) (hcf : ConfigOk s)
    (hx : s.env.xfer = none) (x : Status) (v : Word32) : StateOk (s.endCommand x v) :=
  .ofUndriven trivial (by simp) hoe hpu hr hcf hx

/-- Lines are driven in a request pulse only. -/
theorem StateOk.undriven {s : State} (h : StateOk s) (hph : s.phase ≠ .reqLow) : s.sdOe = [] :=
  h.lines.2 fun hp => hph hp.2

/-! ## QUERY -/

/-- A QUERY in progress is in one of its own waits: VALID is 0, its operands are legal, nothing is outstanding. -/
theorem StateOk.query_busy {s : State} {L f : Nat} (h : StateOk s) (hs : s.st ≠ .idle)
    (hd : decode s.cmd = .ok (.query L f)) :
    QueryRunning s ∧ s.valid = false ∧ queryIllegal s.par L f = none ∧ s.phase ≠ .i2cWait := by
  rcases h.busy_cases hs with ⟨-, hq, hw⟩ | ⟨-, ⟨i, body, hd', hb, -⟩, -⟩
  · obtain ⟨hv, L', f', hd', hk⟩ := id hq
    obtain ⟨rfl, rfl⟩ : L = L' ∧ f = f' := by simpa [hd] using hd'
    refine ⟨hq, hv, hk, fun hph => ?_⟩
    rcases hw with ⟨-, hp, -⟩ | ⟨-, hp, -⟩ | ⟨-, hp, -⟩ | ⟨hw, -⟩
    · simp [hph] at hp
    · simp [hph] at hp
    · simp [hph] at hp
    · simp [State.wait?, hph] at hw
  · obtain rfl : Instr.query L f = i := by simpa [hd] using hd'
    simp [pwmBody] at hb

/-- Legal operands of QUERY (60_exceptions R233). -/
theorem queryIllegal_eq_none {p : Params} {L f : Nat} : queryIllegal p L f = none ↔ L < p.nLines ∧ f ≤ 1 := by
  simp [queryIllegal, firstIllegal_eq_none]

/-- Enabling the pull-up of an existing line. -/
theorem PullupsOk.insert {s : State} {L : Nat} (h : PullupsOk s) (hL : L < s.par.nLines) :
    PullupsOk { s with sdPu := if s.par.pullupEn = true then insertLine L s.sdPu else s.sdPu } := by
  by_cases hp : s.par.pullupEn = true
  · obtain ⟨hrise, hlt, -⟩ := h
    simp only [PullupsOk, hp, if_true]
    refine ⟨insertLine_rising hrise, fun M hM => ?_, fun h => Bool.noConfusion h⟩
    rcases mem_insertLine.1 hM with rfl | hM
    · exact hL
    · exact hlt M hM
  · rw [show (if s.par.pullupEn = true then insertLine L s.sdPu else s.sdPu) = s.sdPu from if_neg hp]
    exact h

/-- The four waits for a level (40_sensor_query R134, R136). -/
theorem State.wait?_phase {s : State} {w : Bool × Nat} (h : s.wait? = some w) :
    (s.st = .awaitAck ∧ (s.phase = .ackWaitLow ∨ s.phase = .ackWaitHigh)) ∨
    (s.st = .bitSampling ∧ (s.phase = .bitWaitFall ∨ s.phase = .bitWaitRise)) := by
  unfold State.wait? at h
  split at h <;> simp_all

/-- BITIDX is in range while bits are sampled (10_state R23). -/
theorem StateOk.bitIdx_lt {s : State} (h : StateOk s) (hst : s.st = .bitSampling) : s.bitIdx.toNat < nBits := by
  have hc := h.control
  unfold ControlOk at hc
  rw [hst] at hc
  split at hc <;> simp_all

/-- A tick of a delay or of a wait that goes on keeps ST and PHASE in the table of 10_state R22. -/
theorem StateOk.countQuery {L : Nat} {s : State} (h : StateOk s) (hq : QueryRunning s)
    (hin : (s.st = .requestSent ∧ s.phase = .reqLow ∧ (s.tmr + 1).toNat < tReqLow) ∨
      (s.st = .requestSent ∧ s.phase = .reqWait ∧ (s.tmr + 1).toNat < tReqWait) ∨
      (s.st = .bitSampling ∧ s.phase = .bitDelay ∧ (s.tmr + 1).toNat < tBitDelay) ∨
      (∃ v site, s.wait? = some (v, site) ∧ s.sample L ≠ v ∧ (s.tmr + 1).toNat < s.par.edgeTimeout)) :
    ControlOk { s with tmr := s.tmr + 1 } := by
  have hq' : QueryRunning { s with tmr := s.tmr + 1 } := hq
  unfold ControlOk
  rcases hin with ⟨hst, hph, ht⟩ | ⟨hst, hph, ht⟩ | ⟨hst, hph, ht⟩ | ⟨v, site, hw, -, ht⟩
  · simpa only [hst, hph] using ⟨hq', ht⟩
  · simpa only [hst, hph] using ⟨hq', ht⟩
  · simpa only [hst, hph] using ⟨hq', ht, h.bitIdx_lt hst⟩
  · rcases State.wait?_phase hw with ⟨hst, hph | hph⟩ | ⟨hst, hph | hph⟩
    · simpa only [hst, hph] using ⟨hq', ht⟩
    · simpa only [hst, hph] using ⟨hq', ht⟩
    · simpa only [hst, hph] using ⟨hq', ht, h.bitIdx_lt hst⟩
    · simpa only [hst, hph] using ⟨hq', ht, h.bitIdx_lt hst⟩

/-- The acceptance tick of a QUERY. -/
theorem QueryTick.accepted_ok {L f : Nat} {s : State} (h : StateOk s) (hd : decode s.cmd = .ok (.query L f))
    (hst : s.st = .idle) (hk : queryIllegal s.par L f = none) :
    StateOk { s with valid := false, st := .requestSent, phase := .reqLow, tmr := 0, sdOe := insertLine L s.sdOe } := by
  have hoe : insertLine L s.sdOe = [L] := by rw [h.undriven (by simp [h.idle_phase hst]), insertLine_nil]
  have ht : (0 : BitVec 32).toNat < tReqLow := by decide
  exact ⟨⟨⟨rfl, L, f, hd, hk⟩, ht⟩, ⟨fun _ => ⟨L, f, hd, hoe⟩, fun hn => absurd ⟨rfl, rfl⟩ hn⟩, h.pullups,
    fun hv => Bool.noConfusion hv, h.config, fun _ => h.idle_quiet hst⟩

/-- The end of the request pulse. -/
theorem QueryTick.released_ok {L f : Nat} {s : State} (h : StateOk s) (hd : decode s.cmd = .ok (.query L f))
    (hst : s.st = .requestSent) (hph : s.phase = .reqLow) :
    StateOk { s with
      sdOe := removeLine L s.sdOe, sdPu := if s.par.pullupEn = true then insertLine L s.sdPu else s.sdPu
      phase := .reqWait, tmr := 0 } := by
  obtain ⟨hq, -, hk, hx⟩ := h.query_busy (by simp [hst]) hd
  have hoe : removeLine L s.sdOe = [] := by
    obtain ⟨L', f', hd', hL⟩ := h.lines.1 ⟨hst, hph⟩
    obtain ⟨rfl, -⟩ : L = L' ∧ f = f' := by simpa [hd] using hd'
    rw [hL, removeLine_self]
  refine .ofUndriven ?_ (fun h => Phase.noConfusion h) hoe (h.pullups.insert (queryIllegal_eq_none.1 hk).1) h.reading
    h.config (h.quiet hx)
  unfold ControlOk
  simpa only [hst] using ⟨hq, by decide⟩

/-- A QUERY past its request pulse that goes on to another wait. -/
theorem StateOk.queryMoved {s : State} {L f : Nat} {st : St} {ph : Phase} {b : BitVec 6} {n : BitVec 32}
    {fr : Vector Bool 40} (h : StateOk s) (hd : decode s.cmd = .ok (.query L f)) (hst : s.st ≠ .idle)
    (hph : s.phase ≠ .reqLow) (hph' : ph ≠ .reqLow)
    (hc : QueryRunning s → ControlOk { s with st := st, phase := ph, bitIdx := b, tmr := n, frame := fr }) :
    StateOk { s with st := st, phase := ph, bitIdx := b, tmr := n, frame := fr } := by
  obtain ⟨hq, -, -, hx⟩ := h.query_busy hst hd
  exact .ofUndriven (hc hq) hph' (h.undriven hph) h.pullups h.reading h.config (h.quiet hx)

/-- A tick of QUERY keeps the invariant. -/
theorem QueryTick.keepsOk {L f : Nat} {s t : State} (h : StateOk s) (hd : decode s.cmd = .ok (.query L f))
    (ht : QueryTick L f s t) : StateOk t := by
  have timer0 : (0 : BitVec 32).toNat < s.par.edgeTimeout := (Params.edgeTimeout_bounds s.par).1
  cases ht with
  | outOfRange k hst =>
    exact .endCommand (s := s.clearValid) (h.undriven (by simp [h.idle_phase hst])) h.pullups
      (fun hv => Bool.noConfusion hv) h.config (h.idle_quiet hst) _ _
  | accepted hst hk => exact QueryTick.accepted_ok h hd hst hk
  | counted hst hin =>
    exact ⟨h.countQuery (h.query_busy hst hd).1 hin, h.lines, h.pullups, h.reading, h.config, h.quiet⟩
  | released hst hph => exact QueryTick.released_ok h hd hst hph
  | timedOut v site hw =>
    obtain ⟨hst, hph⟩ : s.st ≠ .idle ∧ s.phase ≠ .reqLow := by
      rcases State.wait?_phase hw with ⟨h1, h2 | h2⟩ | ⟨h1, h2 | h2⟩ <;> simp [h1, h2]
    obtain ⟨-, -, -, hx⟩ := h.query_busy hst hd
    exact .endCommand (s := s.countTick) (h.undriven hph) h.pullups h.reading h.config (h.quiet hx) _ _
  | firstLooked hst hph =>
    refine h.queryMoved hd (by simp [hst]) (by simp [hph]) (by split <;> simp) fun hq => ?_
    by_cases hs : s.sample L = false
    · simpa only [ControlOk, hs, if_true] using ⟨hq, timer0⟩
    · simpa only [ControlOk, hs, if_false] using ⟨hq, timer0⟩
  | ackStarted hst hph =>
    refine h.queryMoved hd (by simp [hst]) (by simp [hph]) (by simp) fun hq => ?_
    simpa only [ControlOk, hst] using ⟨hq, timer0⟩
  | ackEnded hst hph =>
    exact h.queryMoved hd (by simp [hst]) (by simp [hph]) (by simp) fun hq => ⟨hq, timer0, (by decide : 0 < 40)⟩
  | fell hst hph =>
    refine h.queryMoved hd (by simp [hst]) (by simp [hph]) (by simp) fun hq => ?_
    simpa only [ControlOk, hst] using ⟨hq, timer0, h.bitIdx_lt hst⟩
  | rose hst hph =>
    refine h.queryMoved hd (by simp [hst]) (by simp [hph]) (by simp) fun hq => ?_
    simpa only [ControlOk, hst] using ⟨hq, by decide, h.bitIdx_lt hst⟩
  | sampled hst hph _ hb =>
    refine h.queryMoved hd (by simp [hst]) (by simp [hph]) (by split <;> simp) fun hq => ?_
    by_cases hs : s.sample L = false
    · simpa only [ControlOk, hst, hs, if_true] using ⟨hq, timer0, hb⟩
    · simpa only [ControlOk, hst, hs, if_false] using ⟨hq, timer0, hb⟩
  | read hst hph _ _ ha =>
    obtain ⟨-, -, hk, hx⟩ := h.query_busy (by simp [hst]) hd
    exact .ofUndriven trivial (by simp) (h.undriven (by simp [hph])) h.pullups
      (fun _ => ⟨ha, f, (queryIllegal_eq_none.1 hk).2, rfl, rfl⟩) h.config (h.quiet hx)
  | mismatched hst hph =>
    obtain ⟨-, hv, -, hx⟩ := h.query_busy (by simp [hst]) hd
    exact .ofUndriven trivial (by simp) (h.undriven (by simp [hph])) h.pullups
      (fun hv' => absurd (hv.symm.trans hv') (by simp)) h.config (h.quiet hx)

/-! ## Counting the steps of a sequence -/

/-- TXN is the number of transactions up to SEQ in the sequence in progress, or six more where the lazy initialisation
came first (10_state R25). -/
def State.txnCounted (body : List Action) (s : State) : Prop :=
  s.txn.toNat = transfers ((s.program body).take s.seq.toNat) ∨
    (s.inited = true ∧ s.txn.toNat = 6 + transfers (body.take s.seq.toNat))

/-- A command of units 2 and 3 with legal operands is in CMD; SEQ and TXN count its sequence. While INITED = 0 the step
that sets it is not behind, and the frequency is committed before it (42_pwm_driver R184, R188). -/
structure SeqCounted (i : Instr) (body : List Action) (s : State) : Prop where
  cmd : decode s.cmd = .ok i
  spells : pwmBody s.par i = some body
  legal : illegalOperand s.par i = none
  bound : s.seq.toNat ≤ (s.program body).length
  txn : s.txnCounted body
  uninited : s.inited = false → s.seq.toNat ≤ 8 ∧ (s.seq.toNat = 8 → s.cfgFreq ≠ 0)

/-- What holds between two actions of one tick. -/
structure SeqReady (i : Instr) (body : List Action) (s : State) : Prop where
  counted : SeqCounted i body s
  st : s.st = .pwmSeq
  phase : s.phase = .none
  oe : s.sdOe = []
  pullups : PullupsOk s
  reading : ReadingOk s
  config : ConfigOk s
  quiet : s.env.xfer = none

theorem State.pendingActions_eq (body : List Action) (s : State) :
    s.pendingActions body = (s.program body).drop s.seq.toNat ++ if s.inited = true then [] else body := by
  unfold State.pendingActions State.program
  split <;> simp

/-- A sequence has at most nine steps, so that SEQ never wraps. -/
theorem State.program_length {body : List Action} {s : State} {i : Instr} (hb : pwmBody s.par i = some body) :
    (s.program body).length ≤ 9 := by
  obtain ⟨hlen, -, -⟩ := pwmBody_facts hb
  unfold State.program
  split
  · omega
  · rw [initializeSeq_length]

theorem State.mem_program_commits {body : List Action} {s : State} {i : Instr} {f q : Nat}
    (hb : pwmBody s.par i = some body) (h : Action.commitConfig f q ∈ s.program body) : prescale? f = some q := by
  obtain ⟨-, -, hc⟩ := pwmBody_facts hb
  unfold State.program at h
  split at h
  · exact hc f q h
  · obtain ⟨rfl, rfl⟩ := initializeSeq_commits h
    decide

/-- INITED is set by the initialisation's last step only. -/
theorem State.program_marks {body : List Action} {s : State} {i : Instr} {k : Nat} (hb : pwmBody s.par i = some body)
    (h : (s.program body)[k]? = some .markInited) : s.inited = false ∧ k = 8 := by
  obtain ⟨-, hm, -⟩ := pwmBody_facts hb
  unfold State.program at h
  split at h
  · exact absurd (List.mem_of_getElem? h) hm
  · rename_i hi
    exact ⟨by simpa using hi, initializeSeq_marks h⟩

/-- The transactions of one more step. -/
theorem transfers_take_succ {l : List Action} {k : Nat} {a : Action} (h : l[k]? = some a) :
    transfers (l.take (k + 1)) = transfers (l.take k) + if a.isTransfer = true then 1 else 0 := by
  rw [List.take_add_one, h, transfers_append]
  cases ha : a.isTransfer <;> simp [transfers, ha]

/-- Of the initialisation's last two steps, neither is a transaction (42_pwm_driver R184, R188). -/
theorem initializeSeq_tail {k : Nat} {a : Action} (h : initializeSeq[k]? = some a) (hk : 7 ≤ k) :
    a = .commitConfig 50 121 ∧ k = 7 ∨ a = .markInited ∧ k = 8 := by
  have hlt : k < 9 := by
    rw [← initializeSeq_length]
    exact (List.getElem?_eq_some_iff.1 h).1
  obtain rfl | rfl : k = 7 ∨ k = 8 := by omega
  · exact .inl ⟨(Option.some.inj h).symm, rfl⟩
  · exact .inr ⟨(Option.some.inj h).symm, rfl⟩

/-- Where the next action of a counted sequence stands. -/
theorem SeqCounted.next {i : Instr} {body rest : List Action} {a : Action} {s : State} (h : SeqCounted i body s)
    (hp : s.pendingActions body = a :: rest) :
    (s.program body)[s.seq.toNat]? = some a ∧ (s.seq + 1).toNat = s.seq.toNat + 1 ∧
      s.seq.toNat + 1 ≤ (s.program body).length ∧
      rest = (s.program body).drop (s.seq.toNat + 1) ++ if s.inited = true then [] else body := by
  have hlt : s.seq.toNat < (s.program body).length ∨ s.inited = true := by
    cases hi : s.inited
    · left
      obtain ⟨h8, -⟩ := h.uninited hi
      rw [State.program, hi, if_neg (by simp), initializeSeq_length]
      omega
    · exact .inr rfl
  obtain ⟨hget, hlen, -, hrest⟩ := State.pendingActions_step hp hlt
  have := State.program_length h.spells
  refine ⟨hget, ?_, hlen, hrest⟩
  rw [BitVec.toNat_add]
  exact Nat.mod_eq_of_lt (by simp; omega)

/-- The step SEQ has passed when the count has gone on. -/
theorem State.lastAction_next {body : List Action} {a : Action} {s t : State}
    (h : (s.program body)[s.seq.toNat]? = some a) (hin : t.inited = s.inited) (hseq : t.seq.toNat = s.seq.toNat + 1) :
    t.lastAction body = some a := by
  rw [State.lastAction, State.program, hin, hseq, Nat.add_sub_cancel]
  exact h

/-- TXN after an action that stays in its sequence: it counts the action if that is a transaction. -/
theorem State.txnCounted_next {body : List Action} {a : Action} {s t : State} (h : s.txnCounted body)
    (hget : (s.program body)[s.seq.toNat]? = some a) (hlen : (s.program body).length ≤ 9)
    (hin : t.inited = s.inited) (hseq : t.seq.toNat = s.seq.toNat + 1)
    (htxn : t.txn = if a.isTransfer = true then s.txn + 1 else s.txn) : t.txnCounted body := by
  have hprog : t.program body = s.program body := by rw [State.program, State.program, hin]
  have hsmall : s.txn.toNat + 1 < 256 := by
    have hle := fun l : List Action => (transfers_le (l.take s.seq.toNat)).trans (List.length_take_le' _ _)
    rcases h with h | ⟨hi, h⟩
    · have := hle (s.program body)
      omega
    · rw [State.program, hi, if_pos rfl] at hlen
      have := hle body
      omega
  have hval : t.txn.toNat = s.txn.toNat + if a.isTransfer = true then 1 else 0 := by
    rw [htxn]
    split
    · rw [BitVec.toNat_add]
      exact Nat.mod_eq_of_lt hsmall
    · rfl
  unfold State.txnCounted
  rw [hprog, hseq, hval, hin, transfers_take_succ hget]
  rcases h with h | ⟨hi, h⟩
  · exact .inl (by rw [h])
  · rw [State.program, hi, if_pos rfl] at hget
    exact .inr ⟨hi, by rw [transfers_take_succ hget, h, Nat.add_assoc]⟩

/-- An action that stays in its sequence, with TXN counting it if it is a transaction: the count goes on. -/
theorem SeqCounted.advance {i : Instr} {body rest : List Action} {a : Action} {s t : State} (h : SeqCounted i body s)
    (hp : s.pendingActions body = a :: rest) (ha : a ≠ .markInited) (hcmd : t.cmd = s.cmd) (hpar : t.par = s.par)
    (hin : t.inited = s.inited) (hseq : t.seq = s.seq + 1)
    (htxn : t.txn = if a.isTransfer = true then s.txn + 1 else s.txn)
    (hf : ∀ f q, a = .commitConfig f q → t.cfgFreq ≠ 0) :
    SeqCounted i body t ∧ t.pendingActions body = rest ∧ t.lastAction body = some a ∧ 1 ≤ t.seq.toNat := by
  obtain ⟨hget, hnat, hlen, hrest⟩ := h.next hp
  have hprog : t.program body = s.program body := by rw [State.program, State.program, hin]
  rw [← hseq] at hnat
  refine ⟨⟨hcmd ▸ h.cmd, hpar ▸ h.spells, hpar ▸ h.legal, by rw [hprog, hnat]; exact hlen,
    State.txnCounted_next h.txn hget (State.program_length h.spells) hin hnat htxn, fun hi => ?_⟩, ?_,
    State.lastAction_next hget hin hnat, by omega⟩
  · have hi' : s.inited = false := hin.symm.trans hi
    obtain ⟨h8, -⟩ := h.uninited hi'
    rw [State.program, hi', if_neg (by simp)] at hget
    rw [hnat]
    by_cases h7 : 7 ≤ s.seq.toNat
    · rcases initializeSeq_tail hget h7 with ⟨rfl, h7⟩ | ⟨rfl, -⟩
      · exact ⟨by omega, fun _ => hf _ _ rfl⟩
      · exact absurd rfl ha
    · exact ⟨by omega, fun h' => by omega⟩
  · rw [State.pendingActions_eq, hprog, hnat, hin, hrest]

/-- INITED is set: the body's sequence begins, with six transactions behind it (42_pwm_driver R185). -/
theorem SeqCounted.mark {i : Instr} {body rest : List Action} {s : State} (h : SeqCounted i body s)
    (hp : s.pendingActions body = .markInited :: rest) :
    SeqCounted i body { s with inited := true, seq := 0 } ∧
      State.pendingActions body { s with inited := true, seq := 0 } = rest ∧ s.cfgFreq ≠ 0 := by
  obtain ⟨hget, -, -, hrest⟩ := h.next hp
  obtain ⟨hi, h8⟩ := State.program_marks h.spells hget
  have hprog : s.program body = initializeSeq := by rw [State.program, hi, if_neg (by simp)]
  have htxn : s.txn.toNat = 6 := by
    rcases h.txn with ht | ⟨hi', -⟩
    · rw [ht, hprog, h8]
      decide
    · simp [hi] at hi'
  refine ⟨⟨h.cmd, h.spells, h.legal, Nat.zero_le _, .inr ⟨rfl, ?_⟩, fun h' => Bool.noConfusion h'⟩, ?_,
    (h.uninited hi).2 h8⟩
  · simp [htxn, transfers]
  · rw [hrest, hprog, h8, hi, State.pendingActions_eq]
    simp [State.program, initializeSeq, setFreqSeq]

/-! ## The actions of one tick keep the invariant -/

/-- A frequency with a prescale fits CFG_FREQ, and the prescale fits its byte (42_pwm_driver R186, R187). -/
theorem prescale?_fits {f q : Nat} (h : prescale? f = some q) :
    (BitVec.ofNat 16 f).toNat = f ∧ (BitVec.ofNat 8 q).toNat = q ∧ BitVec.ofNat 16 f ≠ 0 := by
  obtain ⟨h1, hq, h255⟩ := prescale?_eq_some.1 h
  have hb := (prescaleQuotient_bounds h1).1
  have hf : f < 65536 := by
    by_contra hc
    have : 1 * (4096 * f) ≤ prescaleQuotient f * (4096 * f) := Nat.mul_le_mul_right _ (by omega)
    omega
  have hof : (BitVec.ofNat 16 f).toNat = f := by
    rw [BitVec.toNat_ofNat]
    exact Nat.mod_eq_of_lt hf
  refine ⟨hof, ?_, fun h0 => ?_⟩
  · rw [BitVec.toNat_ofNat]
    exact Nat.mod_eq_of_lt (by omega)
  · rw [h0] at hof
    simp at hof
    omega

/-- CFG_FREQ and CFG_PRESCALE as a sequence commits them. -/
theorem ConfigOk.commit {s : State} {f q : Nat} (h : prescale? f = some q) :
    ConfigOk { s with cfgFreq := BitVec.ofNat 16 f, cfgPrescale := BitVec.ofNat 8 q } := by
  obtain ⟨hf, hq, h0⟩ := prescale?_fits h
  refine ⟨.inr ?_, fun _ => h0⟩
  rw [hf, hq]
  exact h

/-- A counted sequence that waits. -/
theorem SeqCounted.running {i : Instr} {body : List Action} {s : State} (h : SeqCounted i body s)
    (h1 : 1 ≤ s.seq.toNat) (hosc : s.phase = .oscWait → s.lastAction body = some .oscWait)
    (hi2c : s.phase = .i2cWait → ∃ a x, s.lastAction body = some a ∧ a.isTransfer = true ∧
      s.env.xfer = some x ∧ x.read = (a == .readMode) ∧ x.left ≠ some 0) : PwmRunning s :=
  ⟨i, body, h.cmd, h.spells, h.legal, h1, h.bound, h.txn, hosc, hi2c⟩

theorem PwmRunning.i2cWait_control {s : State} (h : PwmRunning s) (hst : s.st = .pwmSeq) (hph : s.phase = .i2cWait) :
    ControlOk s := by
  unfold ControlOk
  rw [hst, hph]
  exact h

theorem PwmRunning.oscWait_control {s : State} (h : PwmRunning s) (hst : s.st = .pwmSeq) (hph : s.phase = .oscWait)
    (ht : s.tmr.toNat < tOscWait) : ControlOk s := by
  unfold ControlOk
  rw [hst, hph]
  exact ⟨h, ht⟩

/-- An action with a request is a transaction; only the read of the mode register is a read (30_encoding R105). -/
theorem Action.request?_some {a : Action} {p : Params} {b : Byte} {req : I2cRequest} (h : a.request? p b = some req) :
    a.isTransfer = true ∧ req.rw = (a == .readMode) ∧ a ≠ .markInited ∧ ∀ f q, a ≠ .commitConfig f q := by
  cases a <;> simp only [Action.request?, Option.some.injEq, reduceCtorEq] at h
  all_goals
    subst h
    exact ⟨rfl, rfl, by simp, by simp⟩

/-- An action after which the sequence goes on at the same tick. -/
theorem SeqReady.go {i : Instr} {body rest : List Action} {a : Action} {s t : State} (h : SeqReady i body s)
    (hp : s.pendingActions body = a :: rest) (ho : ActOutcome a s.nextSeq (.go t)) :
    SeqReady i body t ∧ t.pendingActions body = rest := by
  cases ho with
  | passes req hr =>
    obtain ⟨htr, -, hm, hc⟩ := Action.request?_some hr
    obtain ⟨hcount, hpend, -⟩ := h.counted.advance (t := s.nextSeq.answeredAtOnce req) hp hm rfl rfl rfl rfl
      (by rw [htr, if_pos rfl]; rfl) fun f q ha => absurd ha (hc f q)
    exact ⟨⟨hcount, h.st, rfl, h.oe, h.pullups, h.reading, h.config, rfl⟩, hpend⟩
  | commits f q ha =>
    subst ha
    obtain ⟨hget, -⟩ := h.counted.next hp
    have hq := State.mem_program_commits h.counted.spells (List.mem_of_getElem? hget)
    obtain ⟨hcount, hpend, -⟩ := h.counted.advance
      (t := { s.nextSeq with cfgFreq := BitVec.ofNat 16 f, cfgPrescale := BitVec.ofNat 8 q }) hp (by simp) rfl rfl rfl
      rfl rfl fun _ _ _ => (prescale?_fits hq).2.2
    exact ⟨⟨hcount, h.st, h.phase, h.oe, h.pullups, h.reading, .commit hq, h.quiet⟩, hpend⟩
  | marks ha =>
    subst ha
    obtain ⟨hcount, hpend, h0⟩ := h.counted.mark hp
    exact ⟨⟨hcount, h.st, h.phase, h.oe, h.pullups, h.reading, ⟨h.config.1, fun _ => h0⟩, h.quiet⟩, hpend⟩

/-- An action after which the block waits, or the command has ended. -/
theorem SeqReady.stop {i : Instr} {body rest : List Action} {a : Action} {s t : State} (h : SeqReady i body s)
    (hp : s.pendingActions body = a :: rest) (ho : ActOutcome a s.nextSeq (.stop t)) :
    StateOk t ∧ (t.st = .idle ∨ t.pendingActions body = rest) := by
  cases ho with
  | fails req =>
    exact ⟨.ofUndriven trivial (fun h => Phase.noConfusion h) h.oe h.pullups h.reading h.config rfl, .inl rfl⟩
  | awaits req hr hl =>
    obtain ⟨htr, hrw, hm, hc⟩ := Action.request?_some hr
    obtain ⟨hcount, hpend, hlast, h1⟩ := h.counted.advance (t := s.nextSeq.awaiting req) hp hm rfl rfl rfl rfl
      (by rw [htr, if_pos rfl]; rfl) fun f q ha => absurd ha (hc f q)
    have hrun : PwmRunning (s.nextSeq.awaiting req) :=
      hcount.running h1 (fun hph => Phase.noConfusion hph) fun _ => ⟨a, _, hlast, htr, rfl, hrw, hl⟩
    exact ⟨⟨hrun.i2cWait_control h.st rfl, ⟨fun hl => Phase.noConfusion hl.2, fun _ => h.oe⟩, h.pullups, h.reading,
      h.config, fun hph => absurd rfl hph⟩, .inr hpend⟩
  | waits ha =>
    subst ha
    obtain ⟨hcount, hpend, hlast, h1⟩ := h.counted.advance (t := { s.nextSeq with phase := .oscWait, tmr := 0 }) hp
      (by simp) rfl rfl rfl rfl rfl fun f q ha => Action.noConfusion ha
    have hrun : PwmRunning { s.nextSeq with phase := .oscWait, tmr := 0 } :=
      hcount.running h1 (fun _ => hlast) fun hph => Phase.noConfusion hph
    exact ⟨.ofUndriven (hrun.oscWait_control h.st rfl (by decide : (0 : BitVec 32).toNat < tOscWait))
      (fun h => Phase.noConfusion h) h.oe h.pullups h.reading h.config h.quiet, .inr hpend⟩

/-- A sequence that goes on at a tick leaves the block in a state that meets the invariant. -/
theorem SeqReady.resume_ok {i : Instr} {body : List Action} {s : State} (h : SeqReady i body s) :
    StateOk (s.resumeSeq body) := by
  refine State.runActions_ind (Q := fun rest u => SeqReady i body u ∧ u.pendingActions body = rest) ?_ ?_ ?_ _ s
    ⟨h, rfl⟩
  · rintro a rest u t ⟨hu, hp⟩ ho
    exact hu.go hp ho
  · rintro a rest u t ⟨hu, hp⟩ ho
    exact (hu.stop hp ho).1
  · rintro u ⟨hu, -⟩
    exact .endCommand hu.oe hu.pullups hu.reading hu.config hu.quiet _ _

/-! ## Starting and resuming a sequence -/

/-- The acceptance of a command with legal operands. -/
theorem SeqReady.ofAccepted {i : Instr} {body : List Action} {s : State} (h : StateOk s) (hst : s.st = .idle)
    (hd : decode s.cmd = .ok i) (hb : pwmBody s.par i = some body) (hk : illegalOperand s.par i = none) :
    SeqReady i body s.startSeq :=
  ⟨⟨hd, hb, hk, Nat.zero_le _, .inl (by simp [State.startSeq, transfers]),
      fun _ => ⟨Nat.zero_le _, fun h => nomatch h⟩⟩,
    rfl, rfl, h.undriven (by simp [h.idle_phase hst]), h.pullups, h.reading, h.config, h.idle_quiet hst⟩

/-- The count of a command in progress: the last action is the one waited for, so the initialisation's two last steps
are still to come while INITED = 0. -/
theorem StateOk.pwm_busy {i : Instr} {body : List Action} {s : State} (h : StateOk s) (hst : s.st = .pwmSeq)
    (hd : decode s.cmd = .ok i) (hb : pwmBody s.par i = some body) :
    SeqCounted i body s ∧ s.phase ≠ .reqLow ∧ PwmRunning s := by
  rcases h.busy_cases (by simp [hst]) with ⟨hn, -⟩ | ⟨-, hrun, hph⟩
  · exact absurd hst hn
  obtain ⟨j, body', hd', hb', hk, h1, hlen, htxn, hosc, hi2c⟩ := id hrun
  obtain rfl : i = j := by simpa [hd] using hd'
  obtain rfl : body = body' := by simpa [hb] using hb'
  have hlast : ∃ a, s.lastAction body = some a ∧ (a = .oscWait ∨ a.isTransfer = true) := by
    rcases hph with hph | ⟨hph, -⟩
    · obtain ⟨a, x, hl, ha, -⟩ := hi2c hph
      exact ⟨a, hl, .inr ha⟩
    · exact ⟨_, hosc hph, .inl rfl⟩
  refine ⟨⟨hd, hb, hk, hlen, htxn, fun hi => ?_⟩, by rcases hph with hph | ⟨hph, -⟩ <;> simp [hph], hrun⟩
  obtain ⟨a, hl, ha⟩ := hlast
  rw [State.lastAction, State.program, hi, if_neg (by simp)] at hl
  by_cases h8 : 7 ≤ s.seq.toNat - 1
  · rcases initializeSeq_tail hl h8 with ⟨rfl, -⟩ | ⟨rfl, -⟩ <;> simp [Action.isTransfer] at ha
  · exact ⟨by omega, fun h' => by omega⟩

/-- The answer without an error lets the sequence go on. -/
theorem SeqReady.ofAnswered {i : Instr} {body : List Action} {s : State} (h : StateOk s) (hst : s.st = .pwmSeq)
    (hd : decode s.cmd = .ok i) (hb : pwmBody s.par i = some body) (x : Transfer) : SeqReady i body (s.answered x) := by
  obtain ⟨hc, hph, -⟩ := h.pwm_busy hst hd hb
  exact ⟨⟨hc.cmd, hc.spells, hc.legal, hc.bound, hc.txn, hc.uninited⟩, hst, rfl, h.undriven hph, h.pullups, h.reading,
    h.config, rfl⟩

/-- The end of the oscillator delay lets the sequence go on. -/
theorem SeqReady.ofStable {i : Instr} {body : List Action} {s : State} (h : StateOk s) (hst : s.st = .pwmSeq)
    (hd : decode s.cmd = .ok i) (hb : pwmBody s.par i = some body) (hph : s.phase = .oscWait) (n : BitVec 32) :
    SeqReady i body { s with tmr := n, phase := .none } := by
  obtain ⟨hc, hlow, -⟩ := h.pwm_busy hst hd hb
  exact ⟨⟨hc.cmd, hc.spells, hc.legal, hc.bound, hc.txn, hc.uninited⟩, hst, rfl, h.undriven hlow, h.pullups, h.reading,
    h.config, h.quiet (by simp [hph])⟩

/-- A tick of a command of units 2 and 3 keeps the invariant. -/
theorem PwmTick.keepsOk {i : Instr} {body : List Action} {s t : State} (h : StateOk s) (hd : decode s.cmd = .ok i)
    (hb : pwmBody s.par i = some body) (ht : PwmTick (illegalOperand s.par i) body s t) : StateOk t := by
  cases ht with
  | outOfRange k hst =>
    exact .endCommand (h.undriven (by simp [h.idle_phase hst])) h.pullups h.reading h.config (h.idle_quiet hst) _ _
  | accepted hst hk => exact (SeqReady.ofAccepted h hst hd hb hk).resume_ok
  | unanswered => exact h
  | counted x n hst hph hx hl =>
    obtain ⟨-, hlow, j, body', hd', hb', hk, h1, hlen, htxn, hosc, hi2c⟩ := h.pwm_busy hst hd hb
    obtain ⟨a, y, hlast, ha, hy, hread, -⟩ := hi2c hph
    obtain rfl : x = y := by simpa [hx] using hy
    have hrun : PwmRunning { s with env := { s.env with xfer := some { x with left := some (n + 1) } } } :=
      ⟨j, body', hd', hb', hk, h1, hlen, htxn, hosc, fun _ => ⟨a, _, hlast, ha, rfl, hread, by simp⟩⟩
    exact ⟨hrun.i2cWait_control hst hph, h.lines, h.pullups, h.reading, h.config, fun hph' => absurd hph hph'⟩
  | failed x n hst hph =>
    obtain ⟨-, hlow, -⟩ := h.pwm_busy hst hd hb
    exact .ofUndriven trivial (by simp) (h.undriven hlow) h.pullups h.reading h.config rfl
  | answered x n hst => exact (SeqReady.ofAnswered h hst hd hb x).resume_ok
  | waited hst hph ht =>
    obtain ⟨-, -, hrun⟩ := h.pwm_busy hst hd hb
    have hrun' : PwmRunning { s with tmr := s.tmr + 1 } := hrun
    exact ⟨hrun'.oscWait_control hst hph ht, h.lines, h.pullups, h.reading, h.config, h.quiet⟩
  | stable hst hph => exact (SeqReady.ofStable h hst hd hb hph _).resume_ok

/-! ## Every tick -/

/-- A tick of the command in CMD keeps the invariant. -/
theorem exec_keepsOk {i : Instr} {s t : State} (h : StateOk s) (hd : decode s.cmd = .ok i) (he : exec i s = .next t) :
    StateOk t := by
  rcases exec_cases he with ⟨L, f, rfl, hq⟩ | ⟨hst, x, v, rfl⟩ | ⟨body, hb, hp⟩
  · exact hq.keepsOk h hd
  · exact .endCommand (h.undriven (by simp [h.idle_phase hst])) h.pullups h.reading h.config (h.idle_quiet hst) _ _
  · exact hp.keepsOk h hd hb

/-- Settles O53, by the cases of a step: a reset, a tick of the command in CMD or of the one just latched there, or a
tick that only moves the time or answers a word. -/
theorem stepKeepsInvariant : Obligations.StepKeepsInvariant := by
  intro s t h hs
  rcases step_cases hs with ⟨-, rfl⟩ | ⟨-, -, i, hd, he⟩ | ⟨-, -, -, rfl⟩ | ⟨w, i, ha, hd, he⟩ | ⟨w, e, ha, -, rfl⟩
  · exact State.takeReset_ok _
  · exact exec_keepsOk h.nextTick hd he
  · exact h.nextTick
  · exact exec_keepsOk (h.nextTick.latch ha.1 w) hd he
  · exact .endCommand (s := s.nextTick.takeOffer) (h.undriven (by simp [h.idle_phase ha.1])) h.pullups h.reading
      h.config (h.idle_quiet ha.1) _ _

/-! ## No tick stops -/

/-- Every command is accepted in IDLE. -/
theorem exec_accepts {s : State} (i : Instr) (hst : s.st = .idle) : ∃ t, exec i s = .next t := by
  rcases unit_cases i s.par with ⟨L, f, rfl⟩ | ⟨r, rfl⟩ | ⟨body, hb⟩
  · rw [exec_query, execQuery, hst]
    exact ⟨_, rfl⟩
  · rw [exec_rdreg, execRdreg, hst]
    exact ⟨_, rfl⟩
  · rw [exec_of_pwmBody hb, execPwm, hst]
    exact ⟨_, rfl⟩

/-- A command in progress goes on from every state of the table of 10_state R22. -/
theorem StateOk.exec_continues {i : Instr} {s : State} (h : StateOk s) (hst : s.st ≠ .idle)
    (hd : decode s.cmd = .ok i) : ∃ t, exec i s = .next t := by
  rcases h.busy_cases hst with ⟨-, ⟨-, L, f, hd', -⟩, hw⟩ | ⟨hst, ⟨j, body, hd', hb, -⟩, hph⟩
  · obtain rfl : i = .query L f := by simpa [hd] using hd'
    rw [exec_query, execQuery]
    rcases hw with ⟨hst, hph, -⟩ | ⟨hst, hph, -⟩ | ⟨hst, hph, -⟩ | ⟨hw, -⟩
    · rw [hst, hph]
      exact ⟨_, rfl⟩
    · rw [hst, hph]
      exact ⟨_, rfl⟩
    · rw [hst, hph]
      exact ⟨_, rfl⟩
    · obtain ⟨w, hw⟩ := Option.isSome_iff_exists.1 hw
      rcases State.wait?_phase hw with ⟨hst, hph | hph⟩ | ⟨hst, hph | hph⟩
      all_goals
        rw [hst, hph]
        exact ⟨_, rfl⟩
  · obtain rfl : i = j := by simpa [hd] using hd'
    rw [exec_of_pwmBody hb]
    rcases hph with hph | ⟨hph, -⟩
    · exact ⟨_, execPwm_i2cWait hst hph⟩
    · exact ⟨_, execPwm_oscWait hst hph⟩

/-- Settles O54: a busy block that meets the invariant is where its command goes on, and an idle one accepts any
word. -/
theorem stepNeverStops : Obligations.StepNeverStops := by
  intro s h
  by_cases hr : s.env.now + 1 ∈ s.env.rstTicks
  · exact ⟨_, step_reset hr⟩
  by_cases hst : s.st = .idle
  · rcases step_idle_cases hst hr with ⟨w, ha⟩ | he
    · rw [step_accept ha]
      cases hd : decode w with
      | ok i => exact exec_accepts i hst
      | error e => exact ⟨_, rfl⟩
    · exact ⟨_, he⟩
  · obtain ⟨i, hd⟩ : ∃ i, decode s.cmd = .ok i := by
      rcases h.busy_cases hst with ⟨-, ⟨-, L, f, hd, -⟩, -⟩ | ⟨-, ⟨i, body, hd, -⟩, -⟩
      · exact ⟨_, hd⟩
      · exact ⟨_, hd⟩
    rw [step_busy hst hr, continueCommand, State.nextTick_cmd, hd]
    exact h.nextTick.exec_continues hst hd

end Sys2Proof.Machine
end

section
/-! PROOFS. Nothing that is not architectural shows (93_implementation_defined U8). Two states with the same `scrub` are
one state with other leftovers (`Alike`); each operation of a tick, run on two such states, does the same to both. -/

namespace Sys2Proof.Machine

open Sys2Proof.Config

/-! ## Leftovers -/

/-- The registers whose contents may be left over from an earlier command (10_state R22, R27, R33). -/
structure Leftovers where
  tmr : BitVec 32
  seq : BitVec 4
  txn : BitVec 8
  bitIdx : BitVec 6
  cmd : CmdWord
  frame : Vector Bool 40
  oldMode : Byte

def State.leftovers (s : State) : Leftovers := ⟨s.tmr, s.seq, s.txn, s.bitIdx, s.cmd, s.frame, s.oldMode⟩

/-- The state with these leftovers in place of its own. -/
def State.withLeftovers (l : Leftovers) (s : State) : State :=
  { s with
    tmr := l.tmr, seq := l.seq, txn := l.txn, bitIdx := l.bitIdx, cmd := l.cmd, frame := l.frame, oldMode := l.oldMode }

/-- The leftovers agree with `s` wherever the block still uses them: what `State.scrub` does not wipe. -/
def Leftovers.Agrees (l : Leftovers) (s : State) : Prop :=
  match s.st with
  | .idle => True
  | .bitSampling => l.tmr = s.tmr ∧ l.bitIdx = s.bitIdx ∧ l.cmd = s.cmd ∧
      ∀ (k : Nat) (hk : k < 40), k < s.bitIdx.toNat → l.frame[k] = s.frame[k]
  | .pwmSeq => (s.phase = .oscWait → l.tmr = s.tmr) ∧ l.seq = s.seq ∧ l.txn = s.txn ∧ l.cmd = s.cmd ∧
      (s.oldModeLive = true → l.oldMode = s.oldMode)
  | _ => l.tmr = s.tmr ∧ l.cmd = s.cmd

/-- `t` is `s` with other leftovers. -/
def Alike (s t : State) : Prop := ∃ l : Leftovers, l.Agrees s ∧ t = s.withLeftovers l

/-- Whether OLDMODE matters depends on what is left to do, not on OLDMODE. -/
theorem State.oldModeLive_congr {s t : State} (hcmd : t.cmd = s.cmd) (hpar : t.par = s.par) (henv : t.env = s.env)
    (hin : t.inited = s.inited) (hseq : t.seq = s.seq) : t.oldModeLive = s.oldModeLive := by
  unfold State.oldModeLive State.pendingActions
  rw [hcmd, hpar, henv, hin, hseq]

/-- The bits of two frames below a slot. -/
theorem frame_below_iff {f g : Vector Bool 40} {m n : Nat} (h : m = n) :
    (f.mapIdx fun i b => b && decide (i < m)) = (g.mapIdx fun i b => b && decide (i < n)) ↔
      ∀ (k : Nat) (hk : k < 40), k < n → f[k] = g[k] := by
  subst h
  rw [Vector.ext_iff]
  simp only [Vector.getElem_mapIdx]
  refine forall₂_congr fun k hk => ?_
  by_cases hn : k < m
  · simp [hn]
  · simp [hn]

/-- `scrub` writes leftovers only. -/
theorem State.scrub_eq_withLeftovers (s : State) : s.scrub = s.withLeftovers s.scrub.leftovers := by
  unfold State.scrub
  split <;> rfl

/-- The same value of a register wherever it matters is what `scrub` keeps of it. -/
theorem ite_else_eq_iff {p : Prop} [Decidable p] {α : Type} {x y z : α} :
    (if p then x else z) = (if p then y else z) ↔ (p → x = y) := by
  split <;> simp_all

/-- Leftovers agree iff `scrub` gives the same with them. -/
theorem Leftovers.agrees_iff {l : Leftovers} {s : State} :
    l.Agrees s ↔ (s.withLeftovers l).scrub.leftovers = s.scrub.leftovers := by
  have hst' : (s.withLeftovers l).st = s.st := rfl
  unfold Leftovers.Agrees State.scrub
  rw [hst']
  cases hst : s.st
  case idle => simp [State.leftovers]
  case bitSampling =>
    simp only [State.leftovers, State.withLeftovers, Leftovers.mk.injEq, true_and, and_true]
    constructor
    · rintro ⟨h1, h2, h3, h4⟩
      exact ⟨h1, h2, h3, (frame_below_iff (congrArg BitVec.toNat h2)).2 h4⟩
    · rintro ⟨h1, h2, h3, h4⟩
      exact ⟨h1, h2, h3, (frame_below_iff (congrArg BitVec.toNat h2)).1 h4⟩
  case pwmSeq =>
    have hlive : l.cmd = s.cmd → l.seq = s.seq → (s.withLeftovers l).oldModeLive = s.oldModeLive := fun hcmd hseq =>
      State.oldModeLive_congr hcmd rfl rfl rfl hseq
    simp only [State.leftovers, Leftovers.mk.injEq, true_and]
    constructor
    · rintro ⟨h1, h2, h3, h4, h5⟩
      rw [hlive h4 h2]
      exact ⟨ite_else_eq_iff.2 h1, h2, h3, h4, ite_else_eq_iff.2 h5⟩
    · rintro ⟨h1, h2, h3, h4, h5⟩
      rw [hlive h4 h2] at h5
      exact ⟨ite_else_eq_iff.1 h1, h2, h3, h4, ite_else_eq_iff.1 h5⟩
  all_goals simp [State.leftovers, State.withLeftovers]

/-- States are alike iff they have the same `scrub`. -/
theorem alike_iff {s t : State} : Alike s t ↔ s.scrub = t.scrub := by
  constructor
  · rintro ⟨l, hl, rfl⟩
    rw [State.scrub_eq_withLeftovers (s.withLeftovers l), Leftovers.agrees_iff.1 hl]
    exact State.scrub_eq_withLeftovers s
  · intro h
    have hs := congrArg (State.withLeftovers t.leftovers) (State.scrub_eq_withLeftovers s)
    have ht := congrArg (State.withLeftovers t.leftovers) (State.scrub_eq_withLeftovers t)
    have heq : t = s.withLeftovers t.leftovers := ht.symm.trans ((congrArg _ h.symm).trans hs)
    exact ⟨t.leftovers, Leftovers.agrees_iff.2 (by rw [← heq, h]), heq⟩

/-- What an observer sees of two states that are alike is the same. -/
theorem Alike.outputs {s t : State} (h : Alike s t) :
    s.rsp = t.rsp ∧ s.i2cReq = t.i2cReq ∧ s.sdOe = t.sdOe ∧ s.sdPu = t.sdPu ∧ s.busy = t.busy := by
  obtain ⟨l, -, rfl⟩ := h
  exact ⟨rfl, rfl, rfl, rfl, rfl⟩

theorem Alike.refl (s : State) : Alike s s := alike_iff.2 rfl

/-- In IDLE every leftover is free. -/
theorem Alike.ofIdle {s : State} (l : Leftovers) (hst : s.st = .idle) : Alike s (s.withLeftovers l) :=
  ⟨l, by simp [Leftovers.Agrees, hst], rfl⟩

/-- A command that ends leaves every leftover free. -/
theorem Alike.endCommand (l : Leftovers) (s : State) (x : Status) (v : Word32) :
    Alike (s.endCommand x v) ((s.withLeftovers l).endCommand x v) :=
  .ofIdle (s := s.endCommand x v) l rfl

/-! ## Delays and waits on both states -/

/-- A delay with the same timer runs on, or is over, on both. -/
theorem State.delayTick_both {R : State → State → Prop} {n : Nat} {next : State → State} {s t : State}
    (htmr : t.tmr = s.tmr) (hc : R s.countTick t.countTick) (hn : R (next s.countTick) (next t.countTick)) :
    R (s.delayTick n next) (t.delayTick n next) := by
  rw [State.delayTick_eq, State.delayTick_eq, htmr]
  split
  · exact hn
  · exact hc

/-- A wait with the same timer times out, looks in vain, or is over, on both. -/
theorem State.waitTick_both {R : State → State → Prop} {L site : Nat} {v : Bool} {next : State → State} {s t : State}
    (htmr : t.tmr = s.tmr) (hpar : t.par = s.par) (hs : t.sample L = s.sample L) (hc : R s.countTick t.countTick)
    (he : R (s.countTick.raiseTimeout site) (t.countTick.raiseTimeout site))
    (hn : s.sample L = v → R (next s.countTick) (next t.countTick)) :
    R (s.waitTick L v site next) (t.waitTick L v site next) := by
  rw [State.waitTick_eq, State.waitTick_eq, htmr, hpar, hs]
  split
  · exact he
  · split
    · exact hn ‹_›
    · exact hc

/-- The tick counted on both. -/
theorem Leftovers.Agrees.countTick {l : Leftovers} {s : State} (h : l.Agrees s) (htmr : l.tmr = s.tmr) :
    Alike s.countTick (s.withLeftovers l).countTick := by
  refine ⟨{ l with tmr := s.tmr + 1 }, ?_, by rw [← htmr]; rfl⟩
  unfold Leftovers.Agrees at h ⊢
  rw [State.countTick_st]
  cases hst : s.st <;> simp only [hst] at h ⊢
  case bitSampling => exact ⟨rfl, h.2⟩
  case pwmSeq => exact ⟨fun _ => rfl, h.2⟩
  all_goals exact ⟨rfl, h.2⟩

/-! ## QUERY -/

/-- Leftovers that agree with a QUERY in its request or its acknowledgement. -/
theorem Leftovers.agrees_request {l : Leftovers} {s : State} (hst : s.st = .requestSent ∨ s.st = .awaitAck) :
    l.Agrees s ↔ l.tmr = s.tmr ∧ l.cmd = s.cmd := by
  rcases hst with hst | hst
  · simp only [Leftovers.Agrees, hst]
  · simp only [Leftovers.Agrees, hst]

/-- Leftovers that agree with a QUERY in its bit slots. -/
theorem Leftovers.agrees_sampling {l : Leftovers} {s : State} (hst : s.st = .bitSampling) :
    l.Agrees s ↔ l.tmr = s.tmr ∧ l.bitIdx = s.bitIdx ∧ l.cmd = s.cmd ∧
      ∀ (k : Nat) (hk : k < 40), k < s.bitIdx.toNat → l.frame[k] = s.frame[k] := by
  simp only [Leftovers.Agrees, hst]

/-- Frames that agree below a slot agree below the next one once the slot is sampled in both. -/
theorem frame_agree_sampled {f g : Vector Bool 40} {n : Nat} {b : Bool}
    (h : ∀ (k : Nat) (hk : k < 40), k < n → f[k] = g[k]) :
    ∀ (k : Nat) (hk : k < 40), k < n + 1 → (f.setIfInBounds n b)[k] = (g.setIfInBounds n b)[k] := by
  intro k hk hlt
  rw [Vector.getElem_setIfInBounds, Vector.getElem_setIfInBounds]
  split
  · rfl
  · exact h k hk (by omega)

/-- The acceptance tick of a QUERY uses no leftover. -/
theorem State.acceptQuery_alike (L f : Nat) (l : Leftovers) (s : State) (hcmd : l.cmd = s.cmd) :
    Alike (s.acceptQuery L f) ((s.withLeftovers l).acceptQuery L f) := by
  unfold State.acceptQuery
  dsimp only [State.clearValid_par]
  rw [show (s.withLeftovers l).par = s.par from rfl]
  split
  · exact .endCommand l s.clearValid _ _
  · exact ⟨{ l with tmr := 0 }, (Leftovers.agrees_request (.inl rfl)).2 ⟨rfl, hcmd⟩, rfl⟩

/-- The sample that ends a bit slot stores the bit in both frames; the 40th makes them equal. -/
theorem State.sampleBit_alike {L f : Nat} {l : Leftovers} {s : State} (hst : s.st = .bitSampling)
    (hb : s.bitIdx.toNat < nBits) (hl : l.Agrees s) :
    Alike (s.sampleBit L f) ((s.withLeftovers l).sampleBit L f) := by
  obtain ⟨-, hidx, hcmd, hfr⟩ := (Leftovers.agrees_sampling hst).1 hl
  have hsucc : (s.bitIdx + 1).toNat = s.bitIdx.toNat + 1 := by
    rw [bitIdx_succ]
    exact Nat.mod_eq_of_lt (by unfold nBits at hb; omega)
  have hidx' : (s.withLeftovers l).bitIdx = s.bitIdx := hidx
  have hset : ∀ (k : Nat) (hk : k < 40), k < s.bitIdx.toNat + 1 →
      ((s.withLeftovers l).sampledFrame L)[k] = (s.sampledFrame L)[k] := by
    unfold State.sampledFrame
    rw [hidx']
    exact frame_agree_sampled hfr
  by_cases hmore : (s.bitIdx + 1).toNat < 40
  · rw [State.sampleBit_more hmore, State.sampleBit_more (by rw [hidx']; exact hmore), hidx']
    refine ⟨{ l with tmr := 0, bitIdx := s.bitIdx + 1, frame := (s.withLeftovers l).sampledFrame L },
      (Leftovers.agrees_sampling (by exact hst)).2 ⟨rfl, rfl, hcmd, ?_⟩, rfl⟩
    rw [hsucc]
    exact hset
  · have hlast : 40 ≤ (s.bitIdx + 1).toNat := by omega
    have hfull : (s.withLeftovers l).sampledFrame L = s.sampledFrame L :=
      Vector.ext fun k hk => hset k hk (by omega)
    cases ha : (assembleFrame (s.sampledFrame L)).accepted
    · rw [State.sampleBit_rejected hlast ha,
        State.sampleBit_rejected (by rw [hidx']; exact hlast) (by rw [hfull]; exact ha), hfull]
      exact ⟨{ l with bitIdx := l.bitIdx + 1, frame := s.sampledFrame L }, True.intro, rfl⟩
    · rw [State.sampleBit_accepted hlast ha,
        State.sampleBit_accepted (by rw [hidx']; exact hlast) (by rw [hfull]; exact ha), hfull]
      exact ⟨{ l with bitIdx := l.bitIdx + 1, frame := s.sampledFrame L }, True.intro, rfl⟩

/-- A failed wait ends the command on both. -/
theorem State.raiseTimeout_alike (l : Leftovers) (s : State) (site : Nat) :
    Alike (s.countTick.raiseTimeout site) ((s.withLeftovers l).countTick.raiseTimeout site) :=
  ⟨{ l with tmr := l.tmr + 1 }, True.intro, rfl⟩

/-- A tick of a QUERY on two states that are alike. -/
theorem execQuery_alike {L f : Nat} {l : Leftovers} {s s' : State} (hok : StateOk s) (hl : l.Agrees s)
    (hcmd : l.cmd = s.cmd) (h : execQuery L f s = .next s') :
    ∃ t', execQuery L f (s.withLeftovers l) = .next t' ∧ Alike s' t' := by
  unfold execQuery at h ⊢
  rw [show (s.withLeftovers l).st = s.st from rfl, show (s.withLeftovers l).phase = s.phase from rfl]
  split at h
  · cases h
    exact ⟨_, rfl, State.acceptQuery_alike L f l s hcmd⟩
  · rename_i hst hph
    cases h
    obtain ⟨htmr, -⟩ := (Leftovers.agrees_request (.inl hst)).1 hl
    refine ⟨_, rfl, State.delayTick_both htmr (hl.countTick htmr) ?_⟩
    rw [State.startReqWait_eq, State.startReqWait_eq]
    exact ⟨{ l with tmr := 0 }, (Leftovers.agrees_request (.inl (by exact hst))).2 ⟨rfl, hcmd⟩, rfl⟩
  · rename_i hst hph
    cases h
    obtain ⟨htmr, -⟩ := (Leftovers.agrees_request (.inl hst)).1 hl
    refine ⟨_, rfl, State.delayTick_both htmr (hl.countTick htmr) ?_⟩
    rw [State.startAwaitAck_eq, State.startAwaitAck_eq]
    exact ⟨{ l with tmr := 0 }, (Leftovers.agrees_request (.inr rfl)).2 ⟨rfl, hcmd⟩, rfl⟩
  · rename_i hst hph
    cases h
    obtain ⟨htmr, -⟩ := (Leftovers.agrees_request (.inr hst)).1 hl
    refine ⟨_, rfl, State.waitTick_both htmr rfl rfl (hl.countTick htmr) (State.raiseTimeout_alike l s _) fun hs => ?_⟩
    rw [State.startAckHigh_low (s := s.countTick) hs, State.startAckHigh_low (s := (s.withLeftovers l).countTick) hs]
    exact ⟨{ l with tmr := 0 }, (Leftovers.agrees_request (.inr (by exact hst))).2 ⟨rfl, hcmd⟩, rfl⟩
  · rename_i hst hph
    cases h
    obtain ⟨htmr, -⟩ := (Leftovers.agrees_request (.inr hst)).1 hl
    refine ⟨_, rfl, State.waitTick_both htmr rfl rfl (hl.countTick htmr) (State.raiseTimeout_alike l s _) fun hs => ?_⟩
    rw [State.startBitSampling_high (s := s.countTick) hs,
      State.startBitSampling_high (s := (s.withLeftovers l).countTick) hs]
    exact ⟨{ l with tmr := 0, bitIdx := 0 },
      (Leftovers.agrees_sampling rfl).2 ⟨rfl, rfl, hcmd, fun k _ hk => absurd hk (Nat.not_lt_zero k)⟩, rfl⟩
  · rename_i hst hph
    cases h
    obtain ⟨htmr, hidx, -, hfr⟩ := (Leftovers.agrees_sampling hst).1 hl
    rw [show (s.withLeftovers l).bitIdx = s.bitIdx from hidx]
    refine ⟨_, rfl, State.waitTick_both htmr rfl rfl (hl.countTick htmr) (State.raiseTimeout_alike l s _) fun hs => ?_⟩
    rw [State.startBitRise_low (s := s.countTick) hs, State.startBitRise_low (s := (s.withLeftovers l).countTick) hs]
    exact ⟨{ l with tmr := 0 }, (Leftovers.agrees_sampling (by exact hst)).2 ⟨rfl, hidx, hcmd, hfr⟩, rfl⟩
  · rename_i hst hph
    cases h
    obtain ⟨htmr, hidx, -, hfr⟩ := (Leftovers.agrees_sampling hst).1 hl
    rw [show (s.withLeftovers l).bitIdx = s.bitIdx from hidx]
    refine ⟨_, rfl, State.waitTick_both htmr rfl rfl (hl.countTick htmr) (State.raiseTimeout_alike l s _) fun hs => ?_⟩
    rw [State.startBitDelay_eq, State.startBitDelay_eq]
    exact ⟨{ l with tmr := 0 }, (Leftovers.agrees_sampling (by exact hst)).2 ⟨rfl, hidx, hcmd, hfr⟩, rfl⟩
  · rename_i hst hph
    cases h
    obtain ⟨htmr, hidx, -, hfr⟩ := (Leftovers.agrees_sampling hst).1 hl
    refine ⟨_, rfl, State.delayTick_both htmr (hl.countTick htmr) ?_⟩
    exact State.sampleBit_alike (l := { l with tmr := l.tmr + 1 }) hst (hok.bitIdx_lt hst)
      ((Leftovers.agrees_sampling (by exact hst)).2 ⟨congrArg (· + 1) htmr, hidx, hcmd, hfr⟩)
  · cases h

/-! ## The sequences of units 2 and 3 -/

/-- A sequence that has just begun, or is to be resumed, on both states: they agree on what it uses, on OLDMODE if what
is left to do uses it before it reads it anew. -/
def SeqAlike (rest : List Action) (s t : State) : Prop :=
  ∃ l : Leftovers, t = s.withLeftovers l ∧ l.seq = s.seq ∧ l.txn = s.txn ∧ l.cmd = s.cmd ∧
    (usesOldMode rest = true → l.oldMode = s.oldMode)

/-- What is left after an action other than the read uses OLDMODE only if the action and what is left do. -/
theorem usesOldMode_cons {a : Action} {rest : List Action} (ha : a ≠ .readMode) (h : usesOldMode rest = true) :
    usesOldMode (a :: rest) = true := by
  cases a <;> simp_all [usesOldMode]

/-- A request carries OLDMODE only if the action uses it (30_encoding R105). -/
theorem Action.request?_congr {a : Action} {rest : List Action} {p : Params} {b c : Byte}
    (h : usesOldMode (a :: rest) = true → b = c) : a.request? p b = a.request? p c := by
  cases a <;> simp_all [usesOldMode, Action.request?]

/-- No body uses OLDMODE before it reads it. -/
theorem pwmBody_fresh {p : Params} {i : Instr} {body : List Action} (h : pwmBody p i = some body) :
    usesOldMode body = false := by
  cases i <;> simp only [pwmBody, Option.some.injEq, reduceCtorEq] at h <;> subst h
  · rfl
  · unfold setfreqBody
    split <;> rfl
  · rfl
  · rfl
  · unfold motorBody
    dsimp only
    split <;> rfl

/-- When OLDMODE still matters to a command of units 2 and 3. -/
theorem State.oldModeLive_iff {i : Instr} {body : List Action} {s : State} (hd : decode s.cmd = .ok i)
    (hb : pwmBody s.par i = some body) :
    s.oldModeLive = true ↔ s.env.xfer.any (·.read) = false ∧ usesOldMode (s.pendingActions body) = true := by
  unfold State.oldModeLive
  simp only [hd, hb, Bool.and_eq_true, Bool.not_eq_true']

/-- A transaction, in one equation: the block waits, or the answer comes at once. -/
theorem State.transact_eq (req : I2cRequest) (s : State) :
    s.transact req = if s.env.nextAnswer.latency = some 0 then
      if s.env.nextAnswer.err = true then .stop (s.failedAtOnce req) else .go (s.answeredAtOnce req)
    else .stop (s.awaiting req) := by
  rcases State.transact_cases req s with ⟨hl, ht⟩ | ⟨hl, ht⟩
  · rw [ht, if_pos hl]
    rcases State.arrive_cases req.rw s.env.nextAnswer.err s.env.nextAnswer.data (s.requested req) with
      ⟨he, ha⟩ | ⟨he, ha⟩
    · rw [ha]
      exact (if_pos he).symm
    · rw [ha]
      exact (if_neg (show ¬s.env.nextAnswer.err = true by simp [he])).symm
  · rw [ht, if_neg hl]

/-- One action on both states: both go on with what is left, or both stop. -/
inductive FlowAlike (rest : List Action) : Flow → Flow → Prop where
  | go {s t : State} (h : SeqAlike rest s t) : FlowAlike rest (.go s) (.go t)
  | stop {s t : State} (h : Alike s t) : FlowAlike rest (.stop s) (.stop t)

/-- Leftovers that agree with a sequence that waits. -/
theorem Leftovers.agrees_waiting {i : Instr} {body rest : List Action} {l : Leftovers} {s : State}
    (hst : s.st = .pwmSeq) (hd : decode s.cmd = .ok i) (hb : pwmBody s.par i = some body) (hp : s.pendingActions body = rest) :
    l.Agrees s ↔ (s.phase = .oscWait → l.tmr = s.tmr) ∧ l.seq = s.seq ∧ l.txn = s.txn ∧ l.cmd = s.cmd ∧
      (s.env.xfer.any (·.read) = false → usesOldMode rest = true → l.oldMode = s.oldMode) := by
  simp only [Leftovers.Agrees, hst, State.oldModeLive_iff hd hb, hp, and_imp]

/-- An action after which the block waits: leftovers that agree with what is left to do do not show. -/
theorem SeqReady.waits_alike {i : Instr} {body rest : List Action} {a : Action} {l : Leftovers} {s u : State}
    (hr : SeqReady i body s) (hp : s.pendingActions body = a :: rest) (ho : ActOutcome a s.nextSeq (.stop u))
    (hst : u.st = .pwmSeq) (hcmd : u.cmd = s.cmd) (hpar : u.par = s.par)
    (hl : (u.phase = .oscWait → l.tmr = u.tmr) ∧ l.seq = u.seq ∧ l.txn = u.txn ∧ l.cmd = u.cmd ∧
      (u.env.xfer.any (·.read) = false → usesOldMode rest = true → l.oldMode = u.oldMode)) :
    FlowAlike rest (.stop u) (.stop (u.withLeftovers l)) := by
  have hpend := (hr.stop hp ho).2.resolve_left (by simp [hst])
  exact .stop ⟨l, (Leftovers.agrees_waiting hst (hcmd ▸ hr.counted.cmd) (hpar ▸ hr.counted.spells) hpend).2 hl, rfl⟩

/-- A transaction whose request does not depend on a leftover: it ends alike, and a read stores the same byte. -/
theorem State.transact_alike {rest : List Action} {req : I2cRequest} {l : Leftovers} {s : State} (hseq : l.seq = s.seq)
    (htxn : l.txn = s.txn) (hcmd : l.cmd = s.cmd)
    (hold : req.rw = false → usesOldMode rest = true → l.oldMode = s.oldMode)
    (hwait : s.env.nextAnswer.latency ≠ some 0 →
      FlowAlike rest (.stop (s.awaiting req)) (.stop ((s.awaiting req).withLeftovers { l with txn := s.txn + 1 }))) :
    FlowAlike rest (s.transact req) ((s.withLeftovers l).transact req) := by
  have hawait : (s.withLeftovers l).awaiting req = (s.awaiting req).withLeftovers { l with txn := s.txn + 1 } := by
    rw [← htxn]
    rfl
  have hans : (s.withLeftovers l).env.nextAnswer = s.env.nextAnswer := rfl
  rw [State.transact_eq, State.transact_eq, hans, hawait]
  split
  · split
    · refine .stop ⟨{ l with txn := s.txn + 1 }, True.intro, ?_⟩
      unfold State.failedAtOnce
      rw [show (s.withLeftovers l).txn = s.txn from htxn, ← htxn]
      rfl
    · refine .go ⟨{ l with txn := s.txn + 1, oldMode := if req.rw then s.env.nextAnswer.data else l.oldMode },
        by rw [← htxn]; rfl, hseq, rfl, hcmd, fun hu => ?_⟩
      show (if req.rw = true then _ else l.oldMode) = if req.rw = true then _ else s.oldMode
      cases h0 : req.rw
      · exact hold h0 hu
      · rfl
  · exact hwait ‹_›

/-- An action issues the same request on both states and stores the same answer. -/
theorem State.act_alike {i : Instr} {body rest : List Action} {a : Action} {s t : State} (hr : SeqReady i body s)
    (hp : s.pendingActions body = a :: rest) (h : SeqAlike (a :: rest) s t) :
    FlowAlike rest (s.nextSeq.act a) (t.nextSeq.act a) := by
  obtain ⟨l, rfl, hseq, htxn, hcmd, hold⟩ := h
  have hseq' : l.seq + 1 = s.seq + 1 := congrArg (· + 1) hseq
  have hnext : (s.withLeftovers l).nextSeq = s.nextSeq.withLeftovers { l with seq := l.seq + 1 } := rfl
  rw [hnext]
  cases hreq : a.request? s.par s.oldMode with
  | some req =>
    have hreq' : a.request? s.par l.oldMode = some req := by rw [Action.request?_congr hold, hreq]
    obtain ⟨-, hrw, -⟩ := Action.request?_some hreq
    have hold' : req.rw = false → usesOldMode rest = true → l.oldMode = s.oldMode := fun h0 hu =>
      hold (usesOldMode_cons (by rintro rfl; simp [h0] at hrw) hu)
    rw [State.act_transfer (s := s.nextSeq) hreq,
      State.act_transfer (s := s.nextSeq.withLeftovers { l with seq := l.seq + 1 }) hreq']
    exact State.transact_alike hseq' htxn hcmd hold' fun hl =>
      hr.waits_alike hp (.awaits req hreq hl) hr.st rfl rfl ⟨fun hph => Phase.noConfusion hph, hseq', rfl, hcmd, hold'⟩
  | none =>
    have hold' : usesOldMode rest = true → l.oldMode = s.oldMode := fun hu =>
      hold (usesOldMode_cons (by rintro rfl; simp [Action.request?] at hreq) hu)
    cases a <;> simp only [Action.request?, reduceCtorEq] at hreq
    case oscWait =>
      exact hr.waits_alike (l := { l with seq := l.seq + 1, tmr := 0 }) hp (.waits rfl) hr.st rfl rfl
        ⟨fun _ => rfl, hseq', htxn, hcmd, fun _ => hold'⟩
    case commitConfig => exact .go ⟨{ l with seq := l.seq + 1 }, rfl, hseq', htxn, hcmd, hold'⟩
    case markInited => exact .go ⟨{ l with seq := 0 }, rfl, rfl, htxn, hcmd, hold'⟩

/-- The actions of one tick on both states. -/
theorem State.runActions_alike {i : Instr} {body rest : List Action} {s t : State} (hr : SeqReady i body s)
    (hp : s.pendingActions body = rest) (h : SeqAlike rest s t) : Alike (s.runActions rest) (t.runActions rest) := by
  induction rest generalizing s t with
  | nil =>
    obtain ⟨l, rfl, -⟩ := h
    exact .endCommand l s _ _
  | cons a rest ih =>
    rw [State.runActions_cons, State.runActions_cons]
    have hboth := State.act_alike hr hp h
    have ho := State.act_outcome a s.nextSeq
    generalize s.nextSeq.act a = f, t.nextSeq.act a = g at hboth ho
    cases hboth with
    | go h' =>
      obtain ⟨hr', hp'⟩ := hr.go hp ho
      exact ih hr' hp' h'
    | stop h' => exact h'

/-- A sequence that goes on at a tick, on both states. -/
theorem State.resumeSeq_alike {i : Instr} {body : List Action} {s t : State} (hr : SeqReady i body s)
    (h : SeqAlike (s.pendingActions body) s t) : Alike (s.resumeSeq body) (t.resumeSeq body) := by
  have hp : t.pendingActions body = s.pendingActions body := by
    obtain ⟨l, rfl, hseq, -⟩ := h
    unfold State.pendingActions
    rw [show (s.withLeftovers l).seq = s.seq from hseq]
    rfl
  unfold State.resumeSeq
  rw [hp]
  exact State.runActions_alike hr rfl h

/-- The acceptance tick of a command of units 2 and 3 uses no leftover: a sequence reads OLDMODE before it uses it. -/
theorem State.acceptPwm_alike {i : Instr} {body : List Action} {l : Leftovers} {s : State} (hok : StateOk s)
    (hst : s.st = .idle) (hd : decode s.cmd = .ok i) (hb : pwmBody s.par i = some body) (hcmd : l.cmd = s.cmd) :
    Alike (s.acceptPwm (illegalOperand s.par i) body)
      ((s.withLeftovers l).acceptPwm (illegalOperand s.par i) body) := by
  unfold State.acceptPwm
  split
  · exact .endCommand l s _ _
  · rename_i hk
    refine State.resumeSeq_alike (s := s.startSeq) (.ofAccepted hok hst hd hb hk)
      ⟨{ l with seq := 0, txn := 0 }, rfl, rfl, rfl, hcmd, fun hu => ?_⟩
    have hfresh : usesOldMode (s.startSeq.pendingActions body) = false := by
      unfold State.pendingActions
      split
      · exact pwmBody_fresh hb
      · rfl
    simp [hfresh] at hu

/-- The answer has come and is an error. -/
theorem State.transferTick_fails {next : State → State} {s : State} {x : Transfer} {n : Nat} (hx : s.env.xfer = some x)
    (hl : x.left = some n) (hn : n ≤ 1) (he : x.err = true) :
    s.transferTick next = { s with phase := .none, env := { s.env with xfer := none } }.raise .transportError
      ((s.txn - 1).setWidth 32) := by
  simp only [State.transferTick, hx, hl, if_pos hn, State.arrive, he, if_true]

/-- The answer has come and is no error. -/
theorem State.transferTick_answered {next : State → State} {s : State} {x : Transfer} {n : Nat}
    (hx : s.env.xfer = some x) (hl : x.left = some n) (hn : n ≤ 1) (he : x.err = false) :
    s.transferTick next = next (s.answered x) := by
  cases hread : x.read <;> simp [State.transferTick, hx, hl, hn, State.arrive, he, State.answered, hread]

/-- A tick in I2C_WAIT on both states. -/
theorem State.transferTick_alike {i : Instr} {body : List Action} {l : Leftovers} {s : State} (hok : StateOk s)
    (hst : s.st = .pwmSeq) (hph : s.phase = .i2cWait) (hd : decode s.cmd = .ok i) (hb : pwmBody s.par i = some body)
    (hl : l.Agrees s) :
    Alike (s.transferTick (State.resumeSeq body)) ((s.withLeftovers l).transferTick (State.resumeSeq body)) := by
  obtain ⟨htmr, hseq, htxn, hcmd, hold⟩ := (Leftovers.agrees_waiting hst hd hb rfl).1 hl
  obtain ⟨-, -, j, body', hd', hb', -, -, -, -, -, hi2c⟩ := hok.pwm_busy hst hd hb
  obtain ⟨-, x, -, -, hx, -⟩ := hi2c hph
  have hx' : (s.withLeftovers l).env.xfer = some x := hx
  cases hleft : x.left with
  | none =>
    rw [State.transferTick_never hx hleft, State.transferTick_never hx' hleft]
    exact ⟨l, hl, rfl⟩
  | some n =>
    by_cases hn : n ≤ 1
    · cases he : x.err
      · rw [State.transferTick_answered hx hleft hn he, State.transferTick_answered hx' hleft hn he]
        refine State.resumeSeq_alike (.ofAnswered hok hst hd hb x)
          ⟨{ l with oldMode := if x.read then x.data else l.oldMode }, rfl, hseq, htxn, hcmd, fun hu => ?_⟩
        show (if x.read = true then _ else l.oldMode) = if x.read = true then _ else s.oldMode
        cases hread : x.read
        · exact hold (by simp [hx, hread]) hu
        · rfl
      · rw [State.transferTick_fails hx hleft hn he, State.transferTick_fails hx' hleft hn he,
          show (s.withLeftovers l).txn = s.txn from htxn]
        exact ⟨{ l with txn := s.txn }, True.intro, rfl⟩
    · obtain ⟨m, rfl⟩ : ∃ m, n = m + 2 := ⟨n - 2, by omega⟩
      rw [State.transferTick_later hx hleft, State.transferTick_later hx' hleft]
      refine ⟨l, (Leftovers.agrees_waiting (by exact hst) (by exact hd) (by exact hb) rfl).2
        ⟨htmr, hseq, htxn, hcmd, fun hr hu => hold ?_ hu⟩, rfl⟩
      rw [hx]
      exact hr

/-- A tick of a command of units 2 and 3 on two states that are alike. -/
theorem execPwm_alike {i : Instr} {body : List Action} {l : Leftovers} {s s' : State} (hok : StateOk s)
    (hd : decode s.cmd = .ok i) (hb : pwmBody s.par i = some body) (hl : l.Agrees s) (hcmd : l.cmd = s.cmd)
    (h : execPwm (illegalOperand s.par i) body s = .next s') :
    ∃ t', execPwm (illegalOperand s.par i) body (s.withLeftovers l) = .next t' ∧ Alike s' t' := by
  unfold execPwm at h ⊢
  rw [show (s.withLeftovers l).st = s.st from rfl, show (s.withLeftovers l).phase = s.phase from rfl]
  split at h
  · rename_i hst
    cases h
    exact ⟨_, rfl, State.acceptPwm_alike hok hst hd hb hcmd⟩
  · rename_i hst hph
    cases h
    exact ⟨_, rfl, State.transferTick_alike hok hst hph hd hb hl⟩
  · rename_i hst hph
    cases h
    obtain ⟨htmr, hseq, htxn, -, hold⟩ := (Leftovers.agrees_waiting hst hd hb rfl).1 hl
    have hquiet : s.env.xfer.any (·.read) = false := by simp [hok.quiet (by simp [hph])]
    exact ⟨_, rfl, State.delayTick_both (htmr hph) (hl.countTick (htmr hph))
      (State.resumeSeq_alike (.ofStable hok hst hd hb hph _)
        ⟨{ l with tmr := l.tmr + 1 }, rfl, hseq, htxn, hcmd, hold hquiet⟩)⟩
  · cases h

/-! ## Every step -/

/-- RDREG reads no leftover. -/
theorem execRdreg_alike {r : Nat} {l : Leftovers} {s s' : State} (h : execRdreg r s = .next s') :
    ∃ t', execRdreg r (s.withLeftovers l) = .next t' ∧ Alike s' t' := by
  unfold execRdreg at h ⊢
  rw [show (s.withLeftovers l).st = s.st from rfl, show (s.withLeftovers l).readReg r = s.readReg r from rfl]
  split at h
  · cases h
    refine ⟨_, rfl, ?_⟩
    split
    · exact .endCommand l s _ _
    · exact .endCommand l s _ _
  · cases h

/-- A tick of the command in CMD on two states that are alike. -/
theorem exec_alike {i : Instr} {l : Leftovers} {s s' : State} (hok : StateOk s) (hd : decode s.cmd = .ok i)
    (hl : l.Agrees s) (hcmd : l.cmd = s.cmd) (h : exec i s = .next s') :
    ∃ t', exec i (s.withLeftovers l) = .next t' ∧ Alike s' t' := by
  rcases unit_cases i s.par with ⟨L, f, rfl⟩ | ⟨r, rfl⟩ | ⟨body, hb⟩
  · exact execQuery_alike hok hl hcmd h
  · exact execRdreg_alike h
  · rw [exec_of_pwmBody hb] at h
    rw [exec_of_pwmBody (s := s.withLeftovers l) hb]
    exact execPwm_alike (s := s) hok hd hb hl hcmd h

/-- A busy block uses CMD. -/
theorem Leftovers.Agrees.busy_cmd {l : Leftovers} {s : State} (h : l.Agrees s) (hst : s.st ≠ .idle) :
    l.cmd = s.cmd := by
  unfold Leftovers.Agrees at h
  cases hs : s.st <;> simp only [hs] at h
  case idle => exact absurd hs hst
  case bitSampling =>
    obtain ⟨-, -, hcmd, -⟩ := h
    exact hcmd
  case pwmSeq =>
    obtain ⟨-, -, -, hcmd, -⟩ := h
    exact hcmd
  all_goals exact h.2

/-- Beginning a tick uses no leftover. -/
theorem Leftovers.Agrees.nextTick {l : Leftovers} {s : State} (h : l.Agrees s) : l.Agrees s.nextTick := h

/-- A step from two states that are alike leads to two states that are alike. -/
theorem step_alike {s t s' : State} (hok : StateOk s) (hst : Alike s t) (h : step s = .next s') :
    ∃ t', step t = .next t' ∧ Alike s' t' := by
  obtain ⟨l, hl, rfl⟩ := hst
  rcases step_cases h with
    ⟨hr, rfl⟩ | ⟨hr, hst, i, hd, he⟩ | ⟨hr, hst, hna, rfl⟩ | ⟨w, i, ha, hd, he⟩ | ⟨w, e, ha, hd, rfl⟩
  · exact ⟨_, step_reset (s := s.withLeftovers l) hr, .refl _⟩
  · have hcmd := hl.busy_cmd hst
    rw [step_busy (s := s.withLeftovers l) hst hr, continueCommand,
      show (s.withLeftovers l).nextTick.cmd = s.cmd from hcmd, hd]
    exact exec_alike hok.nextTick hd hl.nextTick hcmd he
  · refine ⟨_, (step_idle_cases (s := s.withLeftovers l) hst hr).resolve_left fun ⟨w, hw⟩ => hna w hw, l, ?_, rfl⟩
    exact hl.nextTick
  · have ha' : (s.withLeftovers l).accepts w := ha
    rw [step_accept ha', hd]
    exact exec_alike (l := { l with cmd := w }) (s := s.nextTick.latch w) (hok.nextTick.latch ha.1 w) hd
      (by simp [Leftovers.Agrees, ha.1]) rfl he
  · have ha' : (s.withLeftovers l).accepts w := ha
    rw [step_accept ha', hd]
    exact ⟨_, rfl, .endCommand l s.nextTick.takeOffer _ _⟩

/-- Settles O59: the same `scrub` is being alike, which every step keeps and the ports do not tell apart. -/
theorem leftoversNeverShow : Obligations.LeftoversNeverShow := by
  intro s t s' hs _ hst h
  obtain ⟨t', ht, ha⟩ := step_alike hs (alike_iff.2 hst) h
  exact ⟨t', ht, alike_iff.1 ha, ha.outputs⟩

end Sys2Proof.Machine
end

section
/-! PROOFS. The addresses and bytes on the I2C port and the levels of the lines (20_memory): every action of a sequence
with legal operands issues a request the rules list, and a tick of the block issues only those of its actions; the byte
split of a tick value and the byte order of a payload; what a driven and a released line read. -/

namespace Sys2Proof.Machine

open Sys2Proof.Config

/-! ## The requests of one action -/

/-- A channel write names an existing channel and 12-bit ticks (20_memory R61, R63). -/
def Action.Legal : Action → Prop
  | .writeChannel ch n f => ch < nChannels ∧ n ≤ tickMax ∧ f ≤ tickMax
  | _ => True

theorem Action.Legal.request {a : Action} {p : Params} {b : Byte} {r : I2cRequest} (ha : a.Legal)
    (hr : a.request? p b = some r) : LegalRequest p r := by
  cases a <;> simp only [Action.request?, Option.some.injEq, reduceCtorEq] at hr <;> subst hr
  case readMode => exact .inl rfl
  case writePrescale q => exact .inr (.inr (.inl ⟨_, rfl⟩))
  case writeChannel ch n f =>
    obtain ⟨hch, hn, hf⟩ := ha
    exact .inr (.inr (.inr ⟨ch, n, f, hch, hn, hf, rfl⟩))
  all_goals exact .inr (.inl ⟨_, rfl⟩)

/-- What an action adds to the request port: nothing, or the request R105 lists for it. -/
theorem ActOutcome.requests {a : Action} {s : State} {f : Flow} (h : ActOutcome a s f) :
    f.state.i2cReq = s.i2cReq ∨
      ∃ r, a.request? s.par s.oldMode = some r ∧ f.state.i2cReq = s.i2cReq ++ [r] := by
  cases h with
  | awaits r hr | fails r hr | passes r hr => exact .inr ⟨r, hr, rfl⟩
  | waits | commits | marks => exact .inl rfl

theorem SeqFrame.par {s t : State} (h : SeqFrame s t) : t.par = s.par :=
  (congrArg State.par h.beside :)

/-! ## The actions of a command with legal operands -/

/-- The most the widest pulse asks for is 491 ticks (43_actuator_mapping R213). -/
theorem servoTicks_le {d : Nat} (h : d ≤ 180) : servoTicks d ≤ tickMax := by
  unfold servoTicks pulseMicros servoUsPerDeg servoUsMin pwmSteps servoPeriodUs tickMax
  omega

/-- Both channels of a legal motor exist (43_actuator_mapping R216). -/
theorem motorBase_pair_lt {p : Params} {index : Nat} (h : 1 ≤ index) : motorBase p index + 1 < nChannels := by
  have hmax := (Params.maxMotor_bounds p).2
  unfold motorBase nChannels
  omega

theorem motorMagnitude_le (p : Params) (v : Int) : motorMagnitude p v ≤ tickMax := Nat.min_le_right _ _

theorem initializeSeq_legal : ∀ a ∈ initializeSeq, a.Legal := by
  simp [initializeSeq, setFreqSeq, Action.Legal]

theorem motorBody_legal {p : Params} {index : Nat} (h : 1 ≤ index) (v : Int) : ∀ a ∈ motorBody p index v, a.Legal := by
  have hrev := motorBase_pair_lt (p := p) h
  have hfwd : motorBase p index < nChannels := by omega
  have hmag := motorMagnitude_le p v
  unfold motorBody
  dsimp only
  split <;> simp [Action.Legal, hrev, hfwd, hmag]

/-- Legal operands give legal actions (60_exceptions R233). -/
theorem pwmBody_legal {p : Params} {i : Instr} {body : List Action} (hb : pwmBody p i = some body)
    (hk : illegalOperand p i = none) : ∀ a ∈ body, a.Legal := by
  cases i <;> simp only [pwmBody, Option.some.injEq, reduceCtorEq] at hb <;> subst hb
  case init => simp [initBody]
  case setfreq f =>
    unfold setfreqBody
    split <;> simp [setFreqSeq, Action.Legal]
  case setduty ch n f =>
    simpa [illegalOperand, setdutyIllegal, firstIllegal_eq_none, setdutyBody, Action.Legal] using hk
  case servo ch d =>
    obtain ⟨hch, hd⟩ : ch < nChannels ∧ d ≤ 180 := by
      simpa [illegalOperand, servoIllegal, firstIllegal_eq_none] using hk
    simp [servoBody, Action.Legal, hch, servoTicks_le hd]
  case motor index v =>
    obtain ⟨h1, -⟩ : 1 ≤ index ∧ index ≤ p.maxMotor := by
      simpa [illegalOperand, motorIllegal, firstIllegal_eq_none] using hk
    exact motorBody_legal h1 v

/-- What is left to do of a body with legal actions, a lazy initialisation included, are legal actions. -/
theorem State.pendingActions_legal {body : List Action} (hb : ∀ a ∈ body, a.Legal) (s : State) :
    ∀ a ∈ s.pendingActions body, a.Legal := by
  intro a ha
  unfold State.pendingActions at ha
  split at ha
  · exact hb a (List.mem_of_mem_drop ha)
  · rcases List.mem_append.1 ha with ha | ha
    · exact initializeSeq_legal a (List.mem_of_mem_drop ha)
    · exact hb a ha

/-! ## The requests of one tick -/

/-- Every request pulsed in the tick is one the rules list, for these parameters. -/
def State.RequestsLegal (p : Params) (s : State) : Prop := ∀ r ∈ s.i2cReq, LegalRequest p r

theorem ActOutcome.keepsRequestsLegal {a : Action} {s : State} {f : Flow} (h : ActOutcome a s f) (ha : a.Legal)
    (hs : s.RequestsLegal s.par) : f.state.RequestsLegal s.par := by
  intro r hr
  rcases h.requests with he | ⟨q, hq, he⟩
  · exact hs r (he ▸ hr)
  · rw [he, List.mem_append, List.mem_singleton] at hr
    rcases hr with hr | rfl
    · exact hs r hr
    · exact ha.request hq

theorem State.runActions_requestsLegal {p : Params} {as : List Action} {s : State} (ha : ∀ a ∈ as, a.Legal)
    (hp : s.par = p) (hs : s.RequestsLegal p) : (s.runActions as).RequestsLegal p := by
  refine State.runActions_ind (Q := fun rest u => (∀ a ∈ rest, a.Legal) ∧ u.par = p ∧ u.RequestsLegal p) ?_ ?_ ?_
    as s ⟨ha, hp, hs⟩
  · rintro a rest u t ⟨ha, rfl, hu⟩ ho
    obtain ⟨ha, hrest⟩ := List.forall_mem_cons.1 ha
    exact ⟨hrest, ho.keepsFrame.par, ho.keepsRequestsLegal ha hu⟩
  · rintro a rest u t ⟨ha, rfl, hu⟩ ho
    exact ho.keepsRequestsLegal (ha a List.mem_cons_self) hu
  · rintro u ⟨-, -, hu⟩
    exact hu

/-- A command of units 2 and 3 with legal operands issues legal requests; one that is refused issues none. -/
theorem PwmTick.requestsLegal {i : Instr} {body : List Action} {s t : State} (h : StateOk s)
    (hd : decode s.cmd = .ok i) (hb : pwmBody s.par i = some body) (hs : s.RequestsLegal s.par)
    (ht : PwmTick (illegalOperand s.par i) body s t) : t.RequestsLegal s.par := by
  have resumed : ∀ u : State, illegalOperand s.par i = none → u.par = s.par → u.i2cReq = s.i2cReq →
      (u.resumeSeq body).RequestsLegal s.par := by
    intro u hk hp hu
    refine State.runActions_requestsLegal (u.pendingActions_legal (pwmBody_legal hb hk)) hp ?_
    rwa [State.RequestsLegal, hu]
  cases ht with
  | outOfRange | unanswered | counted | failed | waited => exact hs
  | accepted _ hk => exact resumed _ hk rfl rfl
  | answered x n hst => exact resumed _ (h.pwm_busy hst hd hb).1.legal rfl rfl
  | stable hst => exact resumed _ (h.pwm_busy hst hd hb).1.legal rfl rfl

/-- QUERY has no I2C transaction. -/
theorem QueryTick.i2cReq {L f : Nat} {s t : State} (h : QueryTick L f s t) : t.i2cReq = s.i2cReq := by
  cases h <;> rfl

theorem State.requestsLegal_of_silent {s : State} (p : Params) (h : s.i2cReq = []) : s.RequestsLegal p := by
  simp [State.RequestsLegal, h]

/-- A tick of the command in CMD, begun with a silent port, issues legal requests only. -/
theorem exec_requestsLegal {i : Instr} {s t : State} (h : StateOk s) (hd : decode s.cmd = .ok i)
    (hs : s.i2cReq = []) (he : exec i s = .next t) : t.RequestsLegal s.par := by
  rcases exec_cases he with ⟨L, f, -, hq⟩ | ⟨-, x, v, rfl⟩ | ⟨body, hb, hp⟩
  · exact State.requestsLegal_of_silent _ (hq.i2cReq.trans hs)
  · exact State.requestsLegal_of_silent _ hs
  · exact hp.requestsLegal h hd hb (State.requestsLegal_of_silent _ hs)

/-- Settles O57: a tick begins with a silent port, and then only the command in CMD, in progress or just latched there,
issues requests. -/
theorem requestsAreLegal : Obligations.RequestsAreLegal := by
  intro s t h hs
  change t.RequestsLegal s.par
  rcases step_cases hs with ⟨-, rfl⟩ | ⟨-, -, i, hd, he⟩ | ⟨-, -, -, rfl⟩ | ⟨w, i, ha, hd, he⟩ | ⟨w, e, -, -, rfl⟩
  · exact State.requestsLegal_of_silent _ rfl
  · exact exec_requestsLegal (s := s.nextTick) h.nextTick hd rfl he
  · exact State.requestsLegal_of_silent _ rfl
  · exact exec_requestsLegal (s := s.nextTick.latch w) (h.nextTick.latch ha.1 w) hd rfl he
  · exact State.requestsLegal_of_silent _ rfl

/-! ## Bytes -/

theorem tickLow_toNat (v : Nat) : (tickLow v).toNat = v % 256 := by
  rw [tickLow, BitVec.extractLsb'_toNat, BitVec.toNat_ofNat, Nat.shiftRight_zero]
  exact Nat.mod_mod_of_dvd v (by decide : 2 ^ 8 ∣ 2 ^ 12)

theorem tickHigh_toNat {v : Nat} (h : v ≤ 4095) : (tickHigh v).toNat = v / 256 := by
  rw [tickHigh, BitVec.toNat_setWidth, BitVec.extractLsb'_toNat, BitVec.toNat_ofNat, Nat.shiftRight_eq_div_pow]
  omega

/-- Bit `i` of a payload is bit `i % 8` of byte `i / 8`, as far as the payload reaches (10_state R44). -/
theorem packPayload_getLsbD (bytes : List Byte) {i : Nat} (hi : i < 40) :
    (packPayload bytes).getLsbD i = (bytes.getD (i / 8) 0).getLsbD (i % 8) := by
  induction bytes generalizing i with
  | nil => simp [packPayload]
  | cons b bs ih =>
    rw [packPayload_cons, BitVec.getLsbD_or, BitVec.getLsbD_shiftLeft, BitVec.getLsbD_setWidth]
    by_cases h8 : i < 8
    · simp [hi, h8, Nat.div_eq_of_lt h8, Nat.mod_eq_of_lt h8]
    · obtain ⟨j, rfl⟩ : ∃ j, i = j + 8 := ⟨i - 8, by omega⟩
      simp [hi, ih (i := j) (by omega)]

/-- Settles O49: the split is division by 256, and the byte order is `packPayload_getLsbD` read eight bits at a
time. -/
theorem bytesInBusOrder : Obligations.BytesInBusOrder := by
  refine ⟨fun v hv => ?_, fun bytes k _ hk => ?_⟩
  · rw [tickLow_toNat, tickHigh_toNat hv]
    omega
  · apply BitVec.eq_of_getLsbD_eq
    intro j hj
    have hdiv : (8 * k + j) / 8 = k := by omega
    have hmod : (8 * k + j) % 8 = j := by omega
    rw [BitVec.getLsbD_extractLsb', packPayload_getLsbD bytes (by omega), hdiv, hmod]
    simp [hj]

/-! ## Lines -/

theorem State.sample_driven {s : State} {L : Nat} (h : s.sdOeAt L = true) : s.sample L = false := if_pos h

theorem State.sample_undriven {s : State} {L : Nat} (h : s.sdOeAt L = false) :
    s.sample L = s.env.level L s.env.now := if_neg (by simp [h])

/-- Settles O51: driving a line sets its bit of SD_OE and releasing it clears it, and neither touches another line's. -/
theorem drivenLineReadsLow : Obligations.DrivenLineReadsLow := by
  intro s L
  refine ⟨State.sample_driven (by simp [State.drive0_sdOeAt]), fun M => State.sample_driven, fun M hM => ⟨?_, ?_⟩⟩
  · have hoe : (s.drive0 L).sdOeAt M = s.sdOeAt M := by simp [State.drive0_sdOeAt, hM]
    rw [State.sample, State.sample, hoe]
    rfl
  · exact State.sample_undriven (s := s.release L) (by simp [State.release_sdOeAt])

end Sys2Proof.Machine
end

section
/-! PROOFS. The command words (30_encoding): what a word must be to spell a command (`Spells`), said once of the fields;
the decoder, the encoder and the mask and match table all agree with it. -/

namespace Sys2Proof

/-! ## Operands and their fields (R91) -/

theorem fitsU16_iff {n : Nat} : fitsU16 n = true ↔ ∃ a : Half, a.toNat = n := by
  unfold fitsU16
  rw [decide_eq_true_eq]
  constructor
  · intro h
    exact ⟨BitVec.ofNat 16 n, Nat.mod_eq_of_lt h⟩
  · rintro ⟨a, rfl⟩
    exact a.isLt

theorem fitsS16_iff {v : Int} : fitsS16 v = true ↔ ∃ b : Half, b.toInt = v := by
  unfold fitsS16
  rw [Bool.and_eq_true, decide_eq_true_eq, decide_eq_true_eq]
  constructor
  · rintro ⟨hlo, hhi⟩
    exact ⟨BitVec.ofInt 16 v, BitVec.toInt_ofInt_eq_self (by decide) hlo (Int.lt_add_one_of_le hhi)⟩
  · rintro ⟨b, rfl⟩
    exact ⟨b.le_toInt, Int.le_of_lt_add_one b.toInt_lt⟩

@[simp] theorem fitsU16_toNat (a : Half) : fitsU16 a.toNat = true := fitsU16_iff.2 ⟨a, rfl⟩

@[simp] theorem fitsS16_toInt (b : Half) : fitsS16 b.toInt = true := fitsS16_iff.2 ⟨b, rfl⟩

/-! ## The rows of R92, by fields -/

/-- The fields `op`, `a`, `b`, `c` of a word with `z = 0` spell the command: one row of R92 each, its unused operands
0. -/
inductive Spells : Byte → Half → Half → Half → Instr → Prop where
  | query (a b : Half) : Spells 0x01 a b 0 (.query a.toNat b.toNat)
  | rdreg (a : Half) : Spells 0x02 a 0 0 (.rdreg a.toNat)
  | init : Spells 0x10 0 0 0 .init
  | setfreq (a : Half) : Spells 0x11 a 0 0 (.setfreq a.toNat)
  | setduty (a b c : Half) : Spells 0x12 a b c (.setduty a.toNat b.toNat c.toNat)
  | servo (a b : Half) : Spells 0x13 a b 0 (.servo a.toNat b.toNat)
  | motor (a b : Half) : Spells 0x14 a b 0 (.motor a.toNat b.toInt)

theorem Spells.wf {op : Byte} {a b c : Half} {i : Instr} (h : Spells op a b c i) : i.wf = true := by
  cases h <;> simp [Instr.wf]

/-- Every well-formed command is spelt by some fields. -/
theorem Instr.exists_spells {i : Instr} (h : i.wf = true) : ∃ op a b c, Spells op a b c i := by
  cases i <;> simp only [Instr.wf, Bool.and_eq_true, fitsU16_iff, fitsS16_iff] at h
  case query =>
    obtain ⟨⟨a, rfl⟩, ⟨b, rfl⟩⟩ := h
    exact ⟨_, _, _, _, .query a b⟩
  case rdreg =>
    obtain ⟨a, rfl⟩ := h
    exact ⟨_, _, _, _, .rdreg a⟩
  case init => exact ⟨_, _, _, _, .init⟩
  case setfreq =>
    obtain ⟨a, rfl⟩ := h
    exact ⟨_, _, _, _, .setfreq a⟩
  case setduty =>
    obtain ⟨⟨⟨a, rfl⟩, ⟨b, rfl⟩⟩, ⟨c, rfl⟩⟩ := h
    exact ⟨_, _, _, _, .setduty a b c⟩
  case servo =>
    obtain ⟨⟨a, rfl⟩, ⟨b, rfl⟩⟩ := h
    exact ⟨_, _, _, _, .servo a b⟩
  case motor =>
    obtain ⟨⟨a, rfl⟩, ⟨b, rfl⟩⟩ := h
    exact ⟨_, _, _, _, .motor a b⟩

/-- The encoder packs the fields that spell the command. -/
theorem Spells.encode_eq {op : Byte} {a b c : Half} {i : Instr} (h : Spells op a b c i) :
    encode i = packFields op a b c := by
  cases h <;> simp [encode]

/-! ## The decoder (R95) -/

/-- The decoder reads the row off the fields that spell it. -/
theorem Spells.decode_eq {op : Byte} {a b c : Half} {i : Instr} (h : Spells op a b c i) :
    decode (packFields op a b c) = .ok i := by
  cases h <;> simp [decode, unusedZero]

theorem unusedZero_eq_ok {unused : List Half} {i j : Instr} :
    unusedZero unused j = .ok i ↔ (∀ x ∈ unused, x = 0) ∧ j = i := by
  have hall : (unused.all (· == 0) = true) ↔ ∀ x ∈ unused, x = 0 := by simp
  rw [← hall]
  unfold unusedZero
  by_cases h : unused.all (· == 0) = true
  · rw [if_pos h, Except.ok.injEq, and_iff_right h]
  · rw [if_neg h]
    exact iff_of_false nofun fun hj => h hj.1

/-- The decoder accepts a word only if its `z` is 0 and its other fields spell the command. -/
theorem spells_of_decode {w : CmdWord} {i : Instr} (h : decode w = .ok i) :
    CmdWord.z w = 0 ∧ Spells (CmdWord.op w) (CmdWord.a w) (CmdWord.b w) (CmdWord.c w) i := by
  dsimp only [decode] at h
  split_ifs at h with hz h1 h2 h3 h4 h5 h6 h7
  all_goals
    simp only [unusedZero_eq_ok, List.mem_cons, List.not_mem_nil, or_false, forall_eq_or_imp, forall_eq] at h
    refine ⟨not_ne_iff.1 hz, ?_⟩
  · obtain ⟨hc, rfl⟩ := h
    rw [h1, hc]
    exact .query _ _
  · obtain ⟨⟨hb, hc⟩, rfl⟩ := h
    rw [h2, hb, hc]
    exact .rdreg _
  · obtain ⟨⟨ha, hb, hc⟩, rfl⟩ := h
    rw [h3, ha, hb, hc]
    exact .init
  · obtain ⟨⟨hb, hc⟩, rfl⟩ := h
    rw [h4, hb, hc]
    exact .setfreq _
  · obtain ⟨-, rfl⟩ := h
    rw [h5]
    exact .setduty _ _ _
  · obtain ⟨hc, rfl⟩ := h
    rw [h6, hc]
    exact .servo _ _
  · obtain ⟨hc, rfl⟩ := h
    rw [h7, hc]
    exact .motor _ _

/-- Settles O1: the fields that spell the command are the ones the encoder packs and the decoder reads. -/
theorem decodeUndoesEncode : Obligations.DecodeUndoesEncode := by
  intro i hwf
  obtain ⟨op, a, b, c, h⟩ := Instr.exists_spells hwf
  rw [h.encode_eq, h.decode_eq]

/-- Settles O2: an accepted word has `z = 0`, so it is its other fields packed, and those spell the command. -/
theorem encodeUndoesDecode : Obligations.EncodeUndoesDecode := by
  intro w i hd
  obtain ⟨hz, h⟩ := spells_of_decode hd
  exact ⟨h.wf, h.encode_eq.trans (packFields_eta hz)⟩

/-- The words the decoder accepts are the encoder's, of well-formed commands. -/
theorem decode_eq_ok_iff {w : CmdWord} {i : Instr} : decode w = .ok i ↔ i.wf = true ∧ encode i = w := by
  constructor
  · exact encodeUndoesDecode w i
  · rintro ⟨hwf, rfl⟩
    exact decodeUndoesEncode i hwf

/-! ## The mask and match table (R92) -/

/-- Every row's mask covers `z` and its match has 0 there. -/
theorem z_of_selected {w : CmdWord} (h : selectedMnemonics w ≠ []) : CmdWord.z w = 0 := by
  by_contra hz
  refine h ?_
  unfold selectedMnemonics
  rw [opcodeRows_fields]
  simp only [List.filter_cons, selects_fieldWord, BitVec.and_allOnes, hz, false_and, and_false, decide_false,
    Bool.false_eq_true, if_false, List.filter_nil, List.map_nil]

/-- The fields of a word that selects a row spell a command. -/
theorem spells_of_selected {op : Byte} {a b c : Half} (h : selectedMnemonics (packFields op a b c) ≠ []) :
    ∃ i, Spells op a b c i := by
  rw [Laws.EncodesItsRow.selected_packFields] at h
  simp only [ne_eq, List.append_eq_nil_iff, ite_eq_right_iff, imp_false, List.cons_ne_nil] at h
  by_contra hn
  push Not at hn
  refine h ⟨⟨⟨⟨⟨⟨?_, ?_⟩, ?_⟩, ?_⟩, ?_⟩, ?_⟩, ?_⟩
  · rintro ⟨rfl, rfl⟩
    exact hn _ (.query a b)
  · rintro ⟨rfl, rfl, rfl⟩
    exact hn _ (.rdreg a)
  · rintro ⟨rfl, rfl, rfl, rfl⟩
    exact hn _ .init
  · rintro ⟨rfl, rfl, rfl⟩
    exact hn _ (.setfreq a)
  · rintro rfl
    exact hn _ (.setduty a b c)
  · rintro ⟨rfl, rfl⟩
    exact hn _ (.servo a b)
  · rintro ⟨rfl, rfl⟩
    exact hn _ (.motor a b)

/-- The word of a command selects the row of its mnemonic alone. -/
theorem selectedMnemonics_encode (i : Instr) : selectedMnemonics (encode i) = [i.mnemonic] := by
  cases i with
  | query l f => exact Laws.EncodesItsRow.query l f
  | rdreg r => exact Laws.EncodesItsRow.rdreg r
  | init => exact Laws.EncodesItsRow.init
  | setfreq f => exact Laws.EncodesItsRow.setfreq f
  | setduty ch n f => exact Laws.EncodesItsRow.setduty ch n f
  | servo ch d => exact Laws.EncodesItsRow.servo ch d
  | motor i v => exact Laws.EncodesItsRow.motor i v

/-- A word that selects a row decodes. -/
theorem decode_of_selected {w : CmdWord} (h : selectedMnemonics w ≠ []) : ∃ i, decode w = .ok i := by
  have hw := packFields_eta (z_of_selected h)
  rw [← hw] at h ⊢
  obtain ⟨i, hi⟩ := spells_of_selected h
  exact ⟨i, hi.decode_eq⟩

/-- Settles O3: a word that decodes is the word of its command, which selects that command's row alone, and a word that
selects a row decodes. -/
theorem decoderAgreesWithMaskTable : Obligations.DecoderAgreesWithMaskTable := by
  intro w
  cases hd : decode w with
  | ok i =>
    obtain ⟨-, rfl⟩ := encodeUndoesDecode w i hd
    exact selectedMnemonics_encode i
  | error e =>
    by_contra hs
    obtain ⟨i, hi⟩ := decode_of_selected hs
    rw [hd] at hi
    cases hi

/-! ## The example words (R107) -/

/-- Settles O4: by `decode_eq_ok_iff` the decoder's half follows from the encoder's, so only the nine commands are to be
encoded. -/
theorem specExampleWordsDecode : Obligations.SpecExampleWordsDecode := by
  unfold Obligations.SpecExampleWordsDecode
  simp only [decode_eq_ok_iff]
  decide

end Sys2Proof
end

section
/-! PROOFS. The response words (30_encoding R100, R101): every response of a step is `responseWord` of one of the six
statuses, of a command only of one that 60_exceptions R234 lists for it. -/

namespace Sys2Proof.Machine

open Sys2Proof.Config

/-! ## The status field -/

theorem Status.code_le (st : Status) : st.code.toNat ≤ 5 := by
  cases st <;> decide

/-- The status field of a response is the status's code. -/
theorem responseWord_status (st : Status) (info : Word32) : (responseWord st info).extractLsb' 32 8 = st.code := by
  unfold responseWord
  exact BitVec.extractLsb'_append_eq_left

/-! ## Which statuses a tick may send -/

/-- If the state sends a response, its status is one of those allowed. -/
def State.SendsOnly (allowed : Status → Bool) (t : State) : Prop :=
  ∀ w, t.rsp = some w → ∃ st info, w = responseWord st info ∧ allowed st = true

theorem State.SendsOnly.ofSilent {allowed : Status → Bool} {t : State} (h : t.rsp = none) : t.SendsOnly allowed :=
  fun w hw => by simp [h] at hw

theorem State.SendsOnly.ofSent {allowed : Status → Bool} {t : State} {st : Status} {info : Word32}
    (h : t.rsp = some (responseWord st info)) (hst : allowed st = true) : t.SendsOnly allowed := by
  intro w hw
  rw [h] at hw
  cases hw
  exact ⟨st, info, rfl, hst⟩

theorem QueryTick.sendsOnly {L f : Nat} {s t : State} (h : QueryTick L f s t) (hr : s.rsp = none) :
    t.SendsOnly (mayEndWith (.query L f)) := by
  cases h with
  | outOfRange | timedOut | read | mismatched => exact .ofSent rfl rfl
  | _ => exact .ofSilent hr

theorem execRdreg_sendsOnly {r : Nat} {s t : State} (h : execRdreg r s = .next t) :
    t.SendsOnly (mayEndWith (.rdreg r)) := by
  unfold execRdreg at h
  split at h
  · cases h
    split
    · exact .ofSent rfl rfl
    · exact .ofSent rfl rfl
  · cases h

theorem mayEndWith_ok (i : Instr) : mayEndWith i .ok = true := by
  cases i <;> rfl

theorem mayEndWith_transportError {p : Params} {i : Instr} {body : List Action} (h : pwmBody p i = some body) :
    mayEndWith i .transportError = true := by
  cases i with
  | query | rdreg => cases h
  | _ => rfl

theorem mayEndWith_rangeError {p : Params} {i : Instr} {k : Nat} (h : illegalOperand p i = some k) :
    mayEndWith i .rangeError = true := by
  cases i with
  | init => cases h
  | _ => rfl

/-- A sequence ends with OK after its last action, or with TransportError where a transaction fails at once. -/
theorem State.resumeSeq_sendsOnly {allowed : Status → Bool} {body : List Action} {s : State}
    (hok : allowed .ok = true) (hte : allowed .transportError = true) (hr : s.rsp = none) :
    (s.resumeSeq body).SendsOnly allowed := by
  refine State.runActions_ind (Q := fun _ u => u.rsp = none) (R := State.SendsOnly allowed) ?_ ?_ ?_ _ s hr
  · intro a rest u t hu ho
    cases ho <;> exact hu
  · intro a rest u t hu ho
    cases ho with
    | fails => exact .ofSent rfl hte
    | awaits | waits => exact .ofSilent hu
  · intro u _
    exact .ofSent rfl hok

theorem PwmTick.sendsOnly {i : Instr} {body : List Action} {s t : State} (hb : pwmBody s.par i = some body)
    (h : PwmTick (illegalOperand s.par i) body s t) (hr : s.rsp = none) : t.SendsOnly (mayEndWith i) := by
  have hte := mayEndWith_transportError hb
  have hok := mayEndWith_ok i
  cases h with
  | outOfRange k _ hk => exact .ofSent rfl (mayEndWith_rangeError hk)
  | failed => exact .ofSent rfl hte
  | accepted | answered | stable => exact State.resumeSeq_sendsOnly hok hte hr
  | unanswered | counted | waited => exact .ofSilent hr

/-- A command ends only with a status that 60_exceptions R234 lists for it. -/
theorem exec_sendsOnly {i : Instr} {s t : State} (h : exec i s = .next t) (hr : s.rsp = none) :
    t.SendsOnly (mayEndWith i) := by
  rcases unit_cases i s.par with ⟨L, f, rfl⟩ | ⟨r, rfl⟩ | ⟨body, hb⟩
  · exact (execQuery_tick h).sendsOnly hr
  · exact execRdreg_sendsOnly h
  · rw [exec_of_pwmBody hb] at h
    exact (execPwm_tick h).sendsOnly hb hr

theorem State.SendsOnly.any {allowed : Status → Bool} {t : State} (h : t.SendsOnly allowed) :
    t.SendsOnly fun _ => true := by
  intro w hw
  obtain ⟨st, info, hsw, -⟩ := h w hw
  exact ⟨st, info, hsw, rfl⟩

/-- Every response of a step is a status's `responseWord`. -/
theorem step_response {s t : State} {w : RspWord} (h : step s = .next t) (hw : t.rsp = some w) :
    ∃ st info, w = responseWord st info := by
  suffices hs : t.SendsOnly fun _ => true by
    obtain ⟨st, info, hsw, -⟩ := hs w hw
    exact ⟨st, info, hsw⟩
  rcases step_cases h with ⟨-, rfl⟩ | ⟨-, -, i, -, he⟩ | ⟨-, -, -, rfl⟩ | ⟨v, i, -, -, he⟩ | ⟨v, e, -, -, rfl⟩
  · exact .ofSilent rfl
  · exact (exec_sendsOnly he rfl).any
  · exact .ofSilent rfl
  · exact (exec_sendsOnly he rfl).any
  · exact .ofSent rfl rfl

/-- Settles O14: the codes as R101 numbers them, and every response is `responseWord` of a status. -/
theorem responsesCarryListedCodes : Obligations.ResponsesCarryListedCodes := by
  refine ⟨⟨rfl, rfl, rfl, rfl, rfl, rfl⟩, fun s t w h hw => ?_⟩
  obtain ⟨st, info, rfl⟩ := step_response h hw
  rw [responseWord_status]
  exact st.code_le

end Sys2Proof.Machine
end

section
/-! PROOFS. QUERY one tick at a time (40_sensor_query): what each phase does at its tick, said once (`exec_query_idle`
to `exec_bitDelay`), and the ticks the rules describe read off it with the laws of delays, waits and looks. -/

namespace Sys2Proof.Machine

open Sys2Proof.Config

/-! ## The primitive each phase runs -/

section
variable {L f : Nat} {s : State}

theorem exec_query_idle (hst : s.st = .idle) : exec (.query L f) s = .next (s.acceptQuery L f) := by
  rw [exec_query, execQuery, hst]

theorem exec_reqLow (hst : s.st = .requestSent) (hph : s.phase = .reqLow) :
    exec (.query L f) s = .next (s.delayTick tReqLow (State.startReqWait L)) := by
  rw [exec_query, execQuery, hst, hph]

theorem exec_reqWait (hst : s.st = .requestSent) (hph : s.phase = .reqWait) :
    exec (.query L f) s = .next (s.delayTick tReqWait (State.startAwaitAck L)) := by
  rw [exec_query, execQuery, hst, hph]

theorem exec_ackWaitLow (hst : s.st = .awaitAck) (hph : s.phase = .ackWaitLow) :
    exec (.query L f) s = .next (s.waitTick L false 0 (State.startAckHigh L)) := by
  rw [exec_query, execQuery, hst, hph]

theorem exec_ackWaitHigh (hst : s.st = .awaitAck) (hph : s.phase = .ackWaitHigh) :
    exec (.query L f) s = .next (s.waitTick L true 1 (State.startBitSampling L)) := by
  rw [exec_query, execQuery, hst, hph]

theorem exec_bitWaitFall (hst : s.st = .bitSampling) (hph : s.phase = .bitWaitFall) :
    exec (.query L f) s = .next (s.waitTick L false (2 + 2 * s.bitIdx.toNat) (State.startBitRise L)) := by
  rw [exec_query, execQuery, hst, hph]

theorem exec_bitWaitRise (hst : s.st = .bitSampling) (hph : s.phase = .bitWaitRise) :
    exec (.query L f) s = .next (s.waitTick L true (3 + 2 * s.bitIdx.toNat) State.startBitDelay) := by
  rw [exec_query, execQuery, hst, hph]

theorem exec_bitDelay (hst : s.st = .bitSampling) (hph : s.phase = .bitDelay) :
    exec (.query L f) s = .next (s.delayTick tBitDelay (State.sampleBit L f)) := by
  rw [exec_query, execQuery, hst, hph]

/-- In its four waits QUERY runs a `WaitLevel` for the level and the site of that wait. -/
theorem exec_wait {v : Bool} {site : Nat} (h : s.wait? = some (v, site)) :
    ∃ next, exec (.query L f) s = .next (s.waitTick L v site next) := by
  unfold State.wait? at h
  split at h
  case h_1 hst hph => cases h; exact ⟨_, exec_ackWaitLow hst hph⟩
  case h_2 hst hph => cases h; exact ⟨_, exec_ackWaitHigh hst hph⟩
  case h_3 hst hph => cases h; exact ⟨_, exec_bitWaitFall hst hph⟩
  case h_4 hst hph => cases h; exact ⟨_, exec_bitWaitRise hst hph⟩
  case h_5 => cases h

/-- The three delays of a QUERY: the phase and its number of ticks (40_sensor_query R132, R136). -/
def State.InDelay (n : Nat) (s : State) : Prop :=
  (s.st = .requestSent ∧ s.phase = .reqLow ∧ n = tReqLow) ∨ (s.st = .requestSent ∧ s.phase = .reqWait ∧ n = tReqWait) ∨
    (s.st = .bitSampling ∧ s.phase = .bitDelay ∧ n = tBitDelay)

/-- In its three delays QUERY runs a `Delay` of that many ticks. -/
theorem exec_delay {n : Nat} (h : s.InDelay n) :
    n < 2 ^ 32 ∧ ∃ next, exec (.query L f) s = .next (s.delayTick n next) := by
  rcases h with ⟨hst, hph, rfl⟩ | ⟨hst, hph, rfl⟩ | ⟨hst, hph, rfl⟩
  · exact ⟨by decide, _, exec_reqLow hst hph⟩
  · exact ⟨by decide, _, exec_reqWait hst hph⟩
  · exact ⟨by decide, _, exec_bitDelay hst hph⟩

/-! ## Ticks that only count -/

theorem exec_wait_missed {v : Bool} {site : Nat} (h : s.wait? = some (v, site)) (hs : s.sample L ≠ v)
    (ht : s.tmr.toNat + 1 < s.par.edgeTimeout) : exec (.query L f) s = .next s.countTick := by
  obtain ⟨next, he⟩ := exec_wait (L := L) (f := f) h
  rw [he, State.waitTick_looks ht, State.look_miss (by simpa using hs)]

theorem exec_delay_running {n : Nat} (h : s.InDelay n) (ht : s.tmr.toNat + 1 < n) :
    exec (.query L f) s = .next s.countTick := by
  obtain ⟨hn, next, he⟩ := exec_delay (L := L) (f := f) h
  rw [he, State.delayTick_running ht hn]

end

/-- Settles O18: such a tick is `State.countTick`. -/
theorem queryWaitsOnlyCountTicks : Obligations.QueryWaitsOnlyCountTicks :=
  ⟨fun _ _ _ _ _ hw hs ht => exec_wait_missed hw hs ht, fun _ _ _ _ hd ht => exec_delay_running hd ht⟩

/-! ## Acceptance, and the ends of the waits -/

/-- The acceptance of a QUERY with legal operands. -/
theorem State.acceptQuery_legal {L f : Nat} {s : State} (h : queryIllegal s.par L f = none) :
    s.acceptQuery L f = { s with
      valid := false, st := .requestSent, phase := .reqLow, tmr := 0, sdOe := insertLine L s.sdOe } := by
  unfold State.acceptQuery
  simp only [State.clearValid_par, h]
  rfl

/-- Settles O16: of the outputs `State.drive0` changes one line's only. -/
theorem queryAcceptanceStartsRequest : Obligations.QueryAcceptanceStartsRequest := by
  intro s L f hst hL hf
  have hoe (M : Nat) : (s.drive0 L).sdOeAt M = (M == L || s.sdOeAt M) := s.drive0_sdOeAt L M
  refine ⟨_, exec_query_idle hst, ?_⟩
  rw [State.acceptQuery_legal (queryIllegal_eq_none.2 ⟨hL, hf⟩)]
  exact ⟨(hoe L).trans (by simp), fun M hM => (hoe M).trans (by simp [hM]), rfl⟩

/-- Settles O19: the wait's looks are used up. -/
theorem waitExpiresWithTimeout : Obligations.WaitExpiresWithTimeout := by
  intro s L f site v hw ht
  obtain ⟨next, he⟩ := exec_wait (L := L) (f := f) hw
  rw [he, State.waitTick_expired ht]
  rfl

/-- A wait that sees its level hands over at this tick. -/
theorem State.waitTick_seen {L site : Nat} {v : Bool} {next : State → State} {s : State}
    (ht : s.tmr.toNat + 1 < s.par.edgeTimeout) (hs : s.sample L = v) : s.waitTick L v site next = next s.countTick := by
  rw [State.waitTick_looks ht, State.look_pass (by simpa using hs)]

/-- Settles O20: the level just seen is not the one the next wait is for, so its own first look misses. -/
theorem waitPassesToNextPhase : Obligations.WaitPassesToNextPhase := by
  intro s L f ht
  refine ⟨fun hst hph hs => ?_, fun hst hph hs => ?_, fun hst hph hs => ?_, fun hst hph hs => ?_⟩
  · rw [exec_ackWaitLow hst hph, State.waitTick_seen ht hs, State.startAckHigh_low (by simpa using hs)]
    rfl
  · rw [exec_ackWaitHigh hst hph, State.waitTick_seen ht hs, State.startBitSampling_high (by simpa using hs)]
    rfl
  · rw [exec_bitWaitFall hst hph, State.waitTick_seen ht hs, State.startBitRise_low (by simpa using hs)]
    rfl
  · rw [exec_bitWaitRise hst hph, State.waitTick_seen ht hs]
    rfl

/-! ## The sample at the end of the bit delay -/

/-- The 28th tick after the rise samples. -/
theorem exec_sampleBit {L f : Nat} {s : State} (hst : s.st = .bitSampling) (hph : s.phase = .bitDelay)
    (ht : s.tmr.toNat + 1 = 28) : exec (.query L f) s = .next (s.countTick.sampleBit L f) := by
  rw [exec_bitDelay hst hph, State.delayTick_over (n := tBitDelay) ht (by decide)]

/-- Settles O21: a sample that is not the 40th. -/
theorem sampleDecidesTheBit : Obligations.SampleDecidesTheBit := by
  intro s L f hst hph ht hi
  have hb : (s.countTick.bitIdx + 1).toNat < 40 := by
    rw [State.countTick_bitIdx, bitIdx_succ]
    omega
  rw [exec_sampleBit hst hph ht, State.sampleBit_more hb]
  rfl

/-- FRAME and BITIDX after the 40th sample. -/
theorem State.lastSample {L : Nat} {s : State} (hi : s.bitIdx.toNat = 39) :
    s.countTick.bitIdx + 1 = 40 ∧ s.countTick.sampledFrame L = s.frame.setIfInBounds 39 (s.sample L) := by
  refine ⟨?_, ?_⟩
  · rw [State.countTick_bitIdx, show s.bitIdx = 39 from BitVec.eq_of_toNat_eq hi]
    rfl
  · rw [State.sampledFrame, State.countTick_bitIdx, State.countTick_frame, State.sample_countTick, hi]

/-- Settles O22: the 40th sample of a frame that passes the checksum. -/
theorem queryCompletesWithReading : Obligations.QueryCompletesWithReading := by
  rintro s L f _ hst hph ht hi rfl hsum
  obtain ⟨hb, hfr⟩ := State.lastSample (L := L) hi
  rw [exec_sampleBit hst hph ht, State.sampleBit_accepted (by rw [hb]; decide)
    (by rw [hfr]; exact (ResultBytes.accepted_iff _).2 hsum), hb, hfr]
  rfl

/-- The info word of a ChecksumMismatch on numbers (30_encoding R102). -/
theorem mismatchInfo_eq (r : ResultBytes) : mismatchInfo r =
    BitVec.ofNat 32 ((r.rb0.toNat + r.rb1.toNat + r.rb2.toNat + r.rb3.toNat) % 256 * 256 + r.rb4.toNat) := by
  have h4 : r.rb4.toNat < 2 ^ 8 := r.rb4.isLt
  have hsum : (checksum r).toNat = (r.rb0.toNat + r.rb1.toNat + r.rb2.toNat + r.rb3.toNat) % 256 := by simp [checksum]
  apply BitVec.eq_of_toNat_eq
  rw [← hsum, mismatchInfo, BitVec.toNat_or, BitVec.toNat_shiftLeft, BitVec.toNat_setWidth, BitVec.toNat_setWidth,
    BitVec.toNat_ofNat]
  have hc : (checksum r).toNat < 2 ^ 8 := (checksum r).isLt
  rw [Nat.mod_eq_of_lt (by omega), Nat.mod_eq_of_lt (by omega : r.rb4.toNat < 2 ^ 32), Nat.shiftLeft_eq,
    Nat.mod_eq_of_lt (by omega), ← Nat.shiftLeft_eq, ← Nat.shiftLeft_add_eq_or_of_lt h4, Nat.shiftLeft_eq,
    Nat.mod_eq_of_lt (by omega)]

/-- Settles O23: the 40th sample of a frame that fails the checksum. -/
theorem queryRejectsBadChecksum : Obligations.QueryRejectsBadChecksum := by
  rintro s L f _ hst hph ht hi rfl hsum
  obtain ⟨hb, hfr⟩ := State.lastSample (L := L) hi
  rw [exec_sampleBit hst hph ht, State.sampleBit_rejected (by rw [hb]; decide)
    (by rw [hfr]; exact Bool.eq_false_iff.2 (mt (ResultBytes.accepted_iff _).1 hsum)), hb, hfr, mismatchInfo_eq]
  rfl

end Sys2Proof.Machine
end

section
/-! PROOFS. Frame assembly, checksum and decode (40_sensor_query R140 to R151): the bits of an assembled byte, and what
the checksum and the two formulas are on the numbers the bytes stand for. -/

namespace Sys2Proof.Machine

/-! ## Packing (R140, R141) -/

/-- The sum of R140 is a byte written with its bits in rising order. -/
theorem assembleByte_eq_ofBits (f : Vector Bool 40) (k : Nat) :
    assembleByte f k = BitVec.ofNat 8 (Nat.ofBits fun i : Fin 8 => f.toList.getD (8 * k + (7 - i.val)) false) := by
  unfold assembleByte
  congr 1
  simp [List.range_succ, Nat.ofBits, Fin.foldr_succ]
  omega

/-- Bit `j` of byte `k` is bit `8k + 7 - j` of the frame. -/
theorem assembleByte_getLsbD (f : Vector Bool 40) (k : Nat) {j : Nat} (hj : j < 8) :
    (assembleByte f k).getLsbD j = f.toList.getD (8 * k + (7 - j)) false := by
  rw [assembleByte_eq_ofBits, BitVec.getLsbD_ofNat, Nat.testBit_ofBits_lt _ _ hj]
  simp [hj]

/-- One bit read in behind the others, as `frameNumber` does with each in turn. -/
def shiftIn (n : BitVec 40) (b : Bool) : BitVec 40 := n <<< 1 ||| (BitVec.ofBool b).setWidth 40

theorem shiftIn_getLsbD (n : BitVec 40) (b : Bool) {i : Nat} (hi : i < 40) :
    (shiftIn n b).getLsbD i = if i = 0 then b else n.getLsbD (i - 1) := by
  cases i with
  | zero => simp [shiftIn]
  | succ i => simp [shiftIn, hi, show i < 40 by omega]

/-- Of the bits read in the last one is bit 0. -/
theorem foldl_shiftIn_getLsbD (l : List Bool) (n : BitVec 40) {i : Nat} (hi : i < 40) :
    (l.foldl shiftIn n).getLsbD i =
      if i < l.length then l.getD (l.length - 1 - i) false else n.getLsbD (i - l.length) := by
  induction l generalizing n with
  | nil => simp
  | cons b l ih =>
    rw [List.foldl_cons, ih, List.length_cons, shiftIn_getLsbD n b (by omega)]
    rcases lt_trichotomy i l.length with hlt | rfl | hgt
    · rw [if_pos hlt, if_pos (by omega), show l.length + 1 - 1 - i = l.length - 1 - i + 1 by omega, List.getD_cons_succ]
    · simp
    · rw [if_neg (by omega), if_neg (by omega), if_neg (by omega), Nat.sub_sub]

/-- Bit `i` of the frame number is bit `39 - i` of the frame. -/
theorem frameNumber_getLsbD (f : Vector Bool 40) {i : Nat} (hi : i < 40) :
    (frameNumber f).getLsbD i = f.toList.getD (39 - i) false := by
  rw [show frameNumber f = f.toList.foldl shiftIn 0 from rfl, foldl_shiftIn_getLsbD _ _ hi, Vector.length_toList,
    if_pos hi]

/-- Settles O24: both sides of the slice have the same bits, and a byte's bits are its own eight of the frame. -/
theorem framePackingIsByPosition : Obligations.FramePackingIsByPosition := by
  refine ⟨fun f k hk => BitVec.eq_of_getLsbD_eq fun j hj => ?_, fun f i k b _ hk hik =>
    BitVec.eq_of_getLsbD_eq fun j hj => ?_⟩
  · rw [assembleByte_getLsbD f k hj, BitVec.getLsbD_extractLsb', frameNumber_getLsbD f (by omega)]
    rw [show 39 - (32 - 8 * k + j) = 8 * k + (7 - j) by omega]
    simp [hj]
  · rw [assembleByte_getLsbD _ k hj, assembleByte_getLsbD f k hj]
    have hne : i ≠ 8 * k + (7 - j) := by omega
    simp [hne]

/-! ## The checksum (R142, R151) -/

/-- Flipping a bit changes the byte. -/
theorem flip_toNat_ne (x : Byte) {j : Nat} (hj : j < 8) : (x ^^^ (1#8 <<< j)).toNat ≠ x.toNat := by
  intro h
  have hbit := congrArg (·.getLsbD j) (BitVec.eq_of_toNat_eq h)
  simp [hj] at hbit

/-- Settles O25: one byte alone has changed, by less than 256, so the sum or the byte it is compared with has. -/
theorem singleBitFlipIsRejected : Obligations.SingleBitFlipIsRejected := by
  refine ⟨fun r j hj ha => ?_, ⟨0, 0, 1, 0, 1⟩, 0, by decide⟩
  have hsum := (ResultBytes.accepted_iff r).1 ha
  have flipped (x : Byte) := flip_toNat_ne x hj
  simp only [Bool.eq_false_iff, ne_eq, ResultBytes.accepted_iff]
  refine ⟨?_, ?_, ?_, ?_, ?_⟩
  · have := flipped r.rb0
    omega
  · have := flipped r.rb1
    omega
  · have := flipped r.rb2
    omega
  · have := flipped r.rb3
    omega
  · have := flipped r.rb4
    omega

/-! ## The decode formulas (R144, R145) -/

/-- The magnitude bits of a sign-and-magnitude byte. -/
theorem magnitude_toNat (x : Byte) : (x &&& 0x7F).toNat = x.toNat % 128 := by
  rw [BitVec.toNat_and]
  exact Nat.and_two_pow_sub_one_eq_mod x.toNat 7

/-- The sign bit. -/
theorem sign_iff (x : Byte) : x.getLsbD 7 = true ↔ 128 ≤ x.toNat := by
  rw [show x.getLsbD 7 = x.msb from (BitVec.msb_eq_getLsbD_last x).symm, BitVec.msb_eq_decide, decide_eq_true_iff]

theorem decodeReading_zero (r : ResultBytes) : decodeReading 0 r =
    (((r.rb0.toNat * 100 + r.rb1.toNat : Nat) : Int), ((r.rb2.toNat * 100 + r.rb3.toNat : Nat) : Int)) := rfl

theorem decodeReading_one_humidity (r : ResultBytes) :
    (decodeReading 1 r).1 = ((r.rb0.toNat * 256 + r.rb1.toNat) * 10 : Nat) := rfl

theorem decodeReading_one_temperature (r : ResultBytes) : (decodeReading 1 r).2 =
    if r.rb2.toNat < 128 then (((r.rb2.toNat * 256 + r.rb3.toNat) * 10 : Nat) : Int)
    else -((((r.rb2.toNat - 128) * 256 + r.rb3.toNat) * 10 : Nat) : Int) := by
  show (if r.rb2.getLsbD 7 = true then _ else _) = _
  rw [magnitude_toNat]
  by_cases hs : r.rb2.toNat < 128
  · rw [if_neg (by rw [sign_iff]; omega), if_pos hs, Nat.mod_eq_of_lt hs]
  · rw [if_pos ((sign_iff _).2 (by omega)), if_neg hs, show r.rb2.toNat % 128 = r.rb2.toNat - 128 by omega]

/-- The ranges written beside R144 and R145. -/
theorem decodeReading_ranges (r : ResultBytes) :
    0 ≤ (decodeReading 0 r).1 ∧ (decodeReading 0 r).1 ≤ 25755 ∧
    0 ≤ (decodeReading 0 r).2 ∧ (decodeReading 0 r).2 ≤ 25755 ∧
    0 ≤ (decodeReading 1 r).1 ∧ (decodeReading 1 r).1 ≤ 655350 ∧
    -327670 ≤ (decodeReading 1 r).2 ∧ (decodeReading 1 r).2 ≤ 327670 := by
  rw [decodeReading_one_temperature, decodeReading_one_humidity, decodeReading_zero]
  dsimp only
  split <;> omega

/-- HUM and TEMP are wide enough for both families (R147). -/
theorem toInt_ofInt_reading {v : Int} (hlo : -327670 ≤ v) (hhi : v ≤ 655350) : (BitVec.ofInt 32 v).toInt = v := by
  rw [BitVec.toInt_ofInt]
  exact Int.bmod_eq_of_le (by omega) (by omega)

/-- Settles O26: the formulas on numbers, from which the ranges follow, from which 32 bits suffice. -/
theorem decodeFormulas : Obligations.DecodeFormulas := by
  refine ⟨fun r => ⟨decodeReading_zero r, decodeReading_one_humidity r, decodeReading_one_temperature r⟩,
    fun r h2 h3 => ?_, decodeReading_ranges, fun f r hf => ?_⟩
  · simp [decodeReading_one_temperature, h2, h3]
  · have hr := decodeReading_ranges r
    obtain rfl | rfl : f = 0 ∨ f = 1 := by omega
    · exact ⟨toInt_ofInt_reading (by omega) (by omega), toInt_ofInt_reading (by omega) (by omega)⟩
    · exact ⟨toInt_ofInt_reading (by omega) (by omega), toInt_ofInt_reading (by omega) (by omega)⟩

end Sys2Proof.Machine
end

section
/-! PROOFS. The pseudocode's timeline of a QUERY (40_sensor_query R133 to R138, R149): what a wait finds, one bit slot,
and how long the slots take. -/

namespace Sys2Proof.Machine

open Sys2Proof.Config

/-! ## One wait, one slot -/

section
variable {level : Nat → Bool} {v : Bool}

theorem firstLook_seen {n t : Nat} (h : level t = v) : firstLook level v (n + 1) t = some t := if_pos h

theorem firstLook_missed {n t : Nat} (h : level t ≠ v) : firstLook level v (n + 1) t = firstLook level v n (t + 1) :=
  if_neg h

/-- A wait that passes does so at one of its looks, at the awaited level. -/
theorem firstLook_eq_some {n t u : Nat} (h : firstLook level v n t = some u) :
    t ≤ u ∧ u < t + n ∧ level u = v := by
  induction n generalizing t with
  | zero => cases h
  | succ n ih =>
    by_cases hv : level t = v
    · obtain rfl : t = u := by simpa [firstLook_seen hv] using h
      exact ⟨le_refl _, by omega, hv⟩
    · obtain ⟨hlo, hhi, hu⟩ := ih (firstLook_missed hv ▸ h)
      exact ⟨by omega, by omega, hu⟩

end

/-- A wait for the line to be low, then one for it to be high, and `k` from the tick of that rise on: the acknowledgement
(R134) and every bit slot (R136) begin so. -/
def fallThenRise (level : Nat → Bool) (limit site t : Nat) (k : Nat → QueryEnd) : QueryEnd :=
  (firstLook level false limit t).elim (.timedOut site (t + limit)) fun low =>
    (firstLook level true limit low).elim (.timedOut (site + 1) (low + limit)) k

theorem sampleSlots_succ (level : Nat → Bool) (limit n i t : Nat) (f : Vector Bool 40) :
    sampleSlots level limit (n + 1) i t f = fallThenRise level limit (2 + 2 * i) t fun rise =>
      sampleSlots level limit n (i + 1) (rise + tBitDelay) (f.setIfInBounds i (level (rise + tBitDelay))) := by
  rw [sampleSlots, fallThenRise, show 2 + 2 * i + 1 = 3 + 2 * i by omega]
  cases firstLook level false limit t with
  | none => rfl
  | some fall => cases h : firstLook level true limit fall <;> simp [h]

theorem queryTimeline_eq (level : Nat → Bool) (limit t0 : Nat) (f : Vector Bool 40) :
    queryTimeline level limit t0 f = fallThenRise level limit 0 (t0 + tReqLow + tReqWait) fun ackEnd =>
      sampleSlots level limit nBits 0 ackEnd f := by
  unfold queryTimeline fallThenRise
  dsimp only
  cases firstLook level false limit (t0 + tReqLow + tReqWait) with
  | none => rfl
  | some ackStart => cases h : firstLook level true limit ackStart <;> simp [h]

/-! ## Durations (R149) -/

/-- Where both waits pass, the line is low at the end of the first and high at the end of the second, so the second takes a
tick at least. -/
theorem fallThenRise_sampled {level : Nat → Bool} {limit site t tick : Nat} {g : Vector Bool 40} {k : Nat → QueryEnd}
    (h : fallThenRise level limit site t k = .sampled g tick) :
    ∃ low high, t ≤ low ∧ level low = false ∧ low + 1 ≤ high ∧ high ≤ t + 2 * (limit - 1) ∧ level high = true ∧
      k high = .sampled g tick := by
  unfold fallThenRise at h
  cases hlow : firstLook level false limit t with
  | none => simp [hlow] at h
  | some low =>
    cases hhigh : firstLook level true limit low with
    | none => simp [hlow, hhigh] at h
    | some high =>
      obtain ⟨h1, h2, hl⟩ := firstLook_eq_some hlow
      obtain ⟨h3, h4, hh⟩ := firstLook_eq_some hhigh
      have hne : low ≠ high := by
        rintro rfl
        simp [hl] at hh
      exact ⟨low, high, h1, hl, by omega, by omega, hh, by simpa [hlow, hhigh] using h⟩

/-- Every slot takes 29 ticks at least and 28 + 2·(EDGE_TIMEOUT − 1) at most. -/
theorem sampleSlots_duration {level : Nat → Bool} {limit n i t tick : Nat} {f g : Vector Bool 40}
    (h : sampleSlots level limit n i t f = .sampled g tick) :
    t + 29 * n ≤ tick ∧ tick ≤ t + n * (28 + 2 * (limit - 1)) := by
  induction n generalizing i t f with
  | zero =>
    cases h
    omega
  | succ n ih =>
    rw [sampleSlots_succ] at h
    obtain ⟨fall, rise, h1, -, h2, h3, -, hk⟩ := fallThenRise_sampled h
    obtain ⟨hlo, hhi⟩ := ih hk
    rw [tBitDelay] at hlo hhi
    rw [Nat.succ_mul n]
    omega

/-- Slot 0 starts in a tick in which the line is high, so its fall is a tick later at least. -/
theorem sampleSlots_high_duration {level : Nat → Bool} {limit n i t tick : Nat} {f g : Vector Bool 40}
    (h : sampleSlots level limit (n + 1) i t f = .sampled g tick) (ht : level t = true) :
    t + 1 + 29 * (n + 1) ≤ tick := by
  rw [sampleSlots_succ] at h
  obtain ⟨fall, rise, h1, hfall, h2, -, -, hk⟩ := fallThenRise_sampled h
  have hne : t ≠ fall := by
    rintro rfl
    simp [ht] at hfall
  have hlo := (sampleSlots_duration hk).1
  rw [tBitDelay] at hlo
  omega

/-- Settles O29: the acknowledgement is two waits, and each slot two waits and the delay. -/
theorem sampledQueryDuration : Obligations.SampledQueryDuration := by
  intro level limit t0 f g tick _ h
  rw [queryTimeline_eq] at h
  obtain ⟨ackStart, ackEnd, h1, -, h2, h3, hhigh, hk⟩ := fallThenRise_sampled h
  have hlo := sampleSlots_high_duration hk hhigh
  have hhi := (sampleSlots_duration hk).2
  rw [tReqLow, tReqWait] at h1 h3
  rw [nBits] at hhi
  omega

end Sys2Proof.Machine
end

section
/-! PROOFS. QUERY from its acceptance to its response (40_sensor_query R130): a state is followed through a phase as one
base state stamped with the tick and the timer (`State.atTick`); a delay is a run that answers nothing (`QuietRun`), and
a wait leads to the end the pseudocode's `firstLook` gives (`EndsAs`), from the last primitive back to the first. -/

namespace Sys2Proof.Machine

open Sys2Proof.Config

/-! ## Runs that answer nothing, and the response after them -/

theorem responseTrace_add {m n : Nat} {s t : State} (h : stepN m s = .next t) :
    responseTrace (m + n) s = responseTrace m s ++ responseTrace n t := by
  induction m generalizing s with
  | zero =>
    cases h
    rw [Nat.zero_add]
    rfl
  | succ m ih =>
    unfold stepN at h
    split at h
    · rename_i u hu
      rw [Nat.add_right_comm]
      simp only [responseTrace, hu, ih h, List.append_assoc]
    · cases h
    · cases h

/-- `m` ticks later there are as many fewer left without a reset. -/
theorem State.noResetFor.later {m n k : Nat} {s u : State} (h : s.noResetFor n) (hr : u.env.rstTicks = s.env.rstTicks)
    (hn : u.env.now = s.env.now + m) (hk : m + k ≤ n) : u.noResetFor k := by
  intro t ht hlt
  exact h t (hr ▸ ht) (by omega)

theorem State.noResetFor.next {n : Nat} {s : State} (h : s.noResetFor (n + 1)) : s.env.now + 1 ∉ s.env.rstTicks :=
  fun ht => h _ ht (by omega)

theorem State.noResetFor_of_nil {s : State} {n : Nat} (h : s.env.rstTicks = []) : s.noResetFor n :=
  fun t ht => by simp [h] at ht

/-- `n` ticks lead from `s` to `u` and answer nothing. -/
def QuietRun (n : Nat) (s u : State) : Prop := stepN n s = .next u ∧ responseTrace n s = []

theorem QuietRun.refl (s : State) : QuietRun 0 s s := ⟨rfl, rfl⟩

theorem QuietRun.single {s u : State} (h : step s = .next u) (hr : u.rsp = none) : QuietRun 1 s u := by
  simp [QuietRun, stepN, responseTrace, h, hr]

theorem QuietRun.trans {m n : Nat} {s u t : State} (h : QuietRun m s u) (k : QuietRun n u t) :
    QuietRun (m + n) s t := by
  obtain ⟨hs, hr⟩ := h
  obtain ⟨ks, kr⟩ := k
  exact ⟨(stepN_add hs).trans ks, by rw [responseTrace_add hs, hr, kr]; rfl⟩

/-- From `s` on the first response is `w`, at tick `tick`, and leaves the block in `t`. -/
def Answers (tick : Nat) (w : RspWord) (s t : State) : Prop :=
  ∃ n, tick = s.env.now + n ∧ stepN n s = .next t ∧ responseTrace n s = [(tick, w)] ∧ t.env.now = tick

theorem Answers.single {s t : State} {w : RspWord} (h : step s = .next t) (hr : t.rsp = some w)
    (hn : t.env.now = s.env.now + 1) : Answers (s.env.now + 1) w s t := by
  refine ⟨1, rfl, ?_, ?_, hn⟩
  · simp [stepN, h]
  · simp [responseTrace, h, hr, hn]

theorem Answers.before {n tick : Nat} {w : RspWord} {s u t : State} (h : Answers tick w u t) (hq : QuietRun n s u)
    (hn : u.env.now = s.env.now + n) : Answers tick w s t := by
  obtain ⟨m, rfl, hs, hr, ht⟩ := h
  obtain ⟨qs, qr⟩ := hq
  exact ⟨n + m, by omega, (stepN_add qs).trans hs, by rw [responseTrace_add qs, qr, hr]; rfl, ht⟩

/-- The run up to the response, its length read off the ticks at its ends. -/
theorem Answers.sub {tick : Nat} {w : RspWord} {s t : State} (h : Answers tick w s t) :
    stepN (tick - s.env.now) s = .next t ∧ t.env.now = tick ∧ responseTrace (tick - s.env.now) s = [(tick, w)] := by
  obtain ⟨n, hn, hs, hr, ht⟩ := h
  rw [show tick - s.env.now = n by omega]
  exact ⟨hs, ht, hr⟩

/-! ## How a QUERY ends -/

/-- The result bytes and the reading: what a QUERY writes at its end only. -/
def State.results (s : State) : ResultBytes × Word32 × Word32 := (s.rb, s.hum, s.temp)

theorem State.results_eq_iff {s t : State} : t.results = s.results ↔ t.rb = s.rb ∧ t.hum = s.hum ∧ t.temp = s.temp := by
  simp [State.results]

/-- From `s` on a QUERY of family `f` ends as the pseudocode's timeline says. -/
def EndsAs (f : Nat) (s : State) : QueryEnd → Prop
  | .timedOut site tick =>
    ∃ t, Answers tick (responseWord .timeout (BitVec.ofNat 32 site)) s t ∧ t.st = .idle ∧ t.sdOe = [] ∧
      t.results = s.results ∧ t.valid = false
  | .sampled frame tick =>
    ∃ t w, Answers tick w s t ∧ t.st = .idle ∧ t.sdOe = [] ∧ t.rb = assembleFrame frame ∧
      if (assembleFrame frame).accepted = true then
        t.hum = BitVec.ofInt 32 (decodeReading f (assembleFrame frame)).1 ∧
        t.temp = BitVec.ofInt 32 (decodeReading f (assembleFrame frame)).2 ∧ t.valid = true ∧ w = responseWord .ok 0
      else
        t.hum = s.hum ∧ t.temp = s.temp ∧ t.valid = false ∧
          w = responseWord .checksumMismatch (mismatchInfo (assembleFrame frame))

theorem EndsAs.before {f n : Nat} {s u : State} {e : QueryEnd} (h : EndsAs f u e) (hq : QuietRun n s u)
    (hn : u.env.now = s.env.now + n) (hk : u.results = s.results) : EndsAs f s e := by
  cases e with
  | timedOut site tick =>
    obtain ⟨t, ha, hst, hoe, hr, hv⟩ := h
    exact ⟨t, ha.before hq hn, hst, hoe, hr.trans hk, hv⟩
  | sampled frame tick =>
    obtain ⟨t, w, ha, hst, hoe, hr, hend⟩ := h
    obtain ⟨-, hh, ht⟩ := State.results_eq_iff.1 hk
    exact ⟨t, w, ha.before hq hn, hst, hoe, hr, by rwa [hh, ht] at hend⟩

/-! ## A base state at a tick -/

/-- The state `b` at tick `t`, with the timer at `n` and nothing pulsed. -/
def State.atTick (t n : Nat) (b : State) : State :=
  { b with tmr := BitVec.ofNat 32 n, rsp := none, i2cReq := [], env := { b.env with now := t } }

theorem State.atTick_countTick (t n : Nat) (b : State) : (b.atTick t n).countTick = b.atTick t (n + 1) := by
  simp [State.atTick, State.countTick, BitVec.ofNat_add]

theorem State.atTick_tmr {t n : Nat} (b : State) (h : n < 2 ^ 32) : (b.atTick t n).tmr.toNat = n :=
  Nat.mod_eq_of_lt h

/-- What a base that drives no line samples. -/
theorem State.sample_atTick {L t n : Nat} {b : State} (hoe : b.sdOe = []) : (b.atTick t n).sample L = b.env.level L t :=
  State.sample_undriven (s := b.atTick t n) (by simp [State.sdOeAt, State.atTick, hoe])

section
variable {L f : Nat} {b p : State}

/-- A tick of the QUERY in CMD. -/
theorem step_atTick {t n : Nat} (hd : decode b.cmd = .ok (.query L f)) (hst : b.st ≠ .idle)
    (hr : t + 1 ∉ b.env.rstTicks) : step (b.atTick t n) = exec (.query L f) (b.atTick (t + 1) n) :=
  stepContinuesCommandInProgress (b.atTick t n) _ hst hr hd

/-! ## Delays -/

theorem State.InDelay.busy {n : Nat} (h : b.InDelay n) : b.st ≠ .idle := by
  rcases h with ⟨hst, -⟩ | ⟨hst, -⟩ | ⟨hst, -⟩ <;> simp [hst]

/-- A delay counts its ticks. -/
theorem QuietRun.delay {n k t m : Nat} (hd : decode b.cmd = .ok (.query L f)) (hin : b.InDelay n) (hm : m + k < n)
    (hr : (b.atTick t m).noResetFor k) : QuietRun k (b.atTick t m) (b.atTick (t + k) (m + k)) := by
  have hn : n < 2 ^ 32 := (exec_delay (L := L) (f := f) hin).1
  induction k with
  | zero => exact .refl _
  | succ k ih =>
    have hnext : t + k + 1 ∉ b.env.rstTicks :=
      (hr.later (u := b.atTick (t + k) (m + k)) (m := k) (k := 1) rfl rfl (by omega)).next
    refine (ih (by omega) (hr.later (m := 0) rfl rfl (by omega))).trans (.single ?_ rfl)
    rw [step_atTick hd hin.busy hnext,
      exec_delay_running (s := b.atTick (t + k + 1) (m + k)) hin (by rw [State.atTick_tmr b (by omega)]; omega),
      State.atTick_countTick]
    rfl

/-- A whole delay, at whose last tick the next primitive leads to `p`. -/
theorem QuietRun.delay_over {n t : Nat} (hd : decode b.cmd = .ok (.query L f)) (hin : b.InDelay (n + 1))
    (hr : (b.atTick t 0).noResetFor (n + 1))
    (hover : exec (.query L f) (b.atTick (t + n + 1) n) = .next (p.atTick (t + n + 1) 0)) :
    QuietRun (n + 1) (b.atTick t 0) (p.atTick (t + n + 1) 0) := by
  have hrun : QuietRun n (b.atTick t 0) (b.atTick (t + n) (0 + n)) :=
    .delay hd hin (by omega) (hr.later (m := 0) rfl rfl (by omega))
  have hnext : t + n + 1 ∉ b.env.rstTicks :=
    (hr.later (u := b.atTick (t + n) n) (m := n) (k := 1) rfl rfl (by omega)).next
  rw [Nat.zero_add] at hrun
  exact hrun.trans (.single ((step_atTick hd hin.busy hnext).trans hover) rfl)

end

/-! ## The request (R132) -/

/-- The block in its request pulse: the QUERY in `w` accepted, line `L` pulled low. -/
def State.pulsing (L : Nat) (w : CmdWord) (s : State) : State :=
  { s.nextTick.latch w with valid := false, st := .requestSent, phase := .reqLow, sdOe := [L] }

/-- The block after its request pulse: the line released, its pull-up enabled if there is one. -/
def State.pulsed (L : Nat) (w : CmdWord) (s : State) : State :=
  { s.pulsing L w with
    sdOe := removeLine L [L], sdPu := if s.par.pullupEn = true then insertLine L s.sdPu else s.sdPu, phase := .reqWait }

/-- The block whose first look at the line is at tick `t`. -/
def State.firstLooking (L : Nat) (w : CmdWord) (t : Nat) (s : State) : State :=
  { s.pulsed L w with st := .awaitAck, phase := if s.env.level L t = false then .ackWaitHigh else .ackWaitLow }

section
variable {L f : Nat} {w : CmdWord} {s : State}

theorem QuietRun.accept (hok : StateOk s) (ha : s.accepts w) (hd : decode w = .ok (.query L f))
    (hl : queryIllegal s.par L f = none) : QuietRun 1 s ((s.pulsing L w).atTick (s.env.now + 1) 0) := by
  obtain ⟨hst, -⟩ := id ha
  refine .single ?_ rfl
  rw [stepRunsAcceptedCommand s w _ ha hd, exec_query_idle (s := s.nextTick.latch w) hst,
    State.acceptQuery_legal (s := s.nextTick.latch w) hl, State.latch_sdOe,
    State.nextTick_sdOe, hok.undriven (by simp [hok.idle_phase hst]), insertLine_nil]
  rfl

/-- The pulse ends at its 18000th tick. -/
theorem QuietRun.pulse {t : Nat} (hd : decode w = .ok (.query L f))
    (hr : ((s.pulsing L w).atTick t 0).noResetFor 18000) :
    QuietRun 18000 ((s.pulsing L w).atTick t 0) ((s.pulsed L w).atTick (t + 18000) 0) := by
  refine QuietRun.delay_over (n := 17999) hd (.inl ⟨rfl, rfl, rfl⟩) hr ?_
  rw [exec_reqLow rfl rfl, State.delayTick_over (n := tReqLow) rfl (by decide), State.startReqWait_eq]
  rfl

theorem State.pulsed_sdOe (L : Nat) (w : CmdWord) (s : State) : (s.pulsed L w).sdOe = [] := removeLine_self L

theorem State.pulsed_sdPuAt (L M : Nat) (w : CmdWord) (s : State) :
    (s.pulsed L w).sdPuAt M = (s.sdPuAt M || (s.par.pullupEn && M == L)) := by
  rw [← s.enablePullup_sdPuAt L, State.enablePullup, State.sdPuAt, State.sdPuAt, State.pulsed]
  split <;> rfl

/-- The first look is at the 20th tick after that. -/
theorem QuietRun.settle {t : Nat} (hd : decode w = .ok (.query L f))
    (hr : ((s.pulsed L w).atTick t 0).noResetFor 20) :
    QuietRun 20 ((s.pulsed L w).atTick t 0) ((s.firstLooking L w (t + 20)).atTick (t + 20) 0) := by
  refine QuietRun.delay_over (n := 19) hd (.inr (.inl ⟨rfl, rfl, rfl⟩)) hr ?_
  rw [exec_reqWait rfl rfl, State.delayTick_over (n := tReqWait) rfl (by decide), State.startAwaitAck_eq,
    State.sample_countTick, State.sample_atTick (s.pulsed_sdOe L w)]
  rfl

end

/-- Settles O17: the acceptance tick, the delay of 18000 ticks, the one of 20. -/
theorem requestPulseLasts18000Ticks : Obligations.RequestPulseLasts18000Ticks := by
  intro s w L f hok ha hd hL hf hr
  have haccept := QuietRun.accept hok ha hd (queryIllegal_eq_none.2 ⟨hL, hf⟩)
  have hr0 : ((s.pulsing L w).atTick (s.env.now + 1) 0).noResetFor 18020 := hr.later (m := 1) rfl rfl (by omega)
  have hr1 : ((s.pulsed L w).atTick (s.env.now + 1 + 18000) 0).noResetFor 20 :=
    hr0.later (m := 18000) rfl rfl (by omega)
  have hpulse := haccept.trans (.pulse hd (hr0.later (m := 0) rfl rfl (by omega)))
  refine ⟨fun k hk => ?_, fun k hlo hhi => ?_, ?_⟩
  · have hrun := haccept.trans (.delay (k := k) hd (.inl ⟨rfl, rfl, rfl⟩) (by rw [tReqLow]; omega)
      (hr0.later (m := 0) rfl rfl (by omega)))
    rw [Nat.add_comm 1 k] at hrun
    exact ⟨_, hrun.1, rfl, rfl, rfl, rfl⟩
  · obtain ⟨j, rfl⟩ : ∃ j, k = 18000 + j := ⟨k - 18000, by omega⟩
    have hrun := hpulse.trans (.delay (k := j) hd (.inr (.inl ⟨rfl, rfl, rfl⟩)) (by rw [tReqWait]; omega)
      (hr1.later (m := 0) rfl rfl (by omega)))
    rw [show 1 + 18000 + j = 18000 + j + 1 by omega] at hrun
    exact ⟨_, hrun.1, s.pulsed_sdOe L w, rfl, rfl, fun M => s.pulsed_sdPuAt L M w⟩
  · have hrun := hpulse.trans (.settle hd hr1)
    rw [show s.env.now + 18021 = s.env.now + 1 + 18000 + 20 by omega]
    exact ⟨_, hrun.1, rfl, rfl⟩

/-! ## Waits -/

/-- A QUERY past its request pulse, with no reset to come. -/
def Looking (L f : Nat) (b : State) : Prop :=
  decode b.cmd = .ok (.query L f) ∧ b.env.rstTicks = [] ∧ b.sdOe = [] ∧ b.valid = false

/-- The base `b` waits for level `v`, at `site`, and a look that sees it leads to the base `p` at the same tick. -/
structure WaitsFor (L f : Nat) (v : Bool) (site : Nat) (b p : State) : Prop where
  looking : Looking L f b
  wait : b.wait? = some (v, site)
  results : p.results = b.results
  passes : ∀ t n, n + 1 < b.par.edgeTimeout → b.env.level L t = v →
    exec (.query L f) (b.atTick t n) = .next (p.atTick t 0)

/-- Every wait has a first look. -/
theorem edgeTimeout_succ (q : Params) : ∃ n, q.edgeTimeout = n + 1 := Nat.exists_eq_add_of_le' q.edgeTimeout_bounds.1

section
variable {L f site : Nat} {v : Bool} {b p : State} {k : Nat → QueryEnd}

/-- The looks a wait has left, the timer being at `m`, give what `firstLook` gives. -/
theorem WaitsFor.endsAs_later (h : WaitsFor L f v site b p)
    (hk : ∀ t, b.env.level L t = v → EndsAs f (p.atTick t 0) (k t)) {n m t : Nat}
    (hm : m + 1 + n = b.par.edgeTimeout) :
    EndsAs f (b.atTick t m) ((firstLook (b.env.level L) v n (t + 1)).elim (.timedOut site (t + 1 + n)) k) := by
  obtain ⟨⟨hd, hr, hoe, hv⟩, hw, hres, hpass⟩ := id h
  have hbusy : b.st ≠ .idle := by
    rcases State.wait?_phase hw with ⟨hst, -⟩ | ⟨hst, -⟩ <;> simp [hst]
  have hstep (t m : Nat) : step (b.atTick t m) = exec (.query L f) (b.atTick (t + 1) m) :=
    step_atTick hd hbusy (by simp [hr])
  have hlimit := (Params.edgeTimeout_bounds b.par).2
  induction n generalizing m t with
  | zero =>
    have hend : step (b.atTick t m) = .next _ := (hstep t m).trans
      (waitExpiresWithTimeout (b.atTick (t + 1) m) L f site v hw (by rw [State.atTick_tmr b (by omega)]; exact hm))
    exact ⟨_, Answers.single hend rfl rfl, rfl, hoe, rfl, hv⟩
  | succ n ih =>
    by_cases hl : b.env.level L (t + 1) = v
    · rw [firstLook_seen hl]
      exact (hk _ hl).before (.single ((hstep t m).trans (hpass _ _ (by omega) hl)) rfl) rfl hres
    · rw [firstLook_missed hl, show t + 1 + (n + 1) = t + 1 + 1 + n by omega]
      refine (ih (m := m + 1) (t := t + 1) (by omega)).before (.single ?_ rfl) rfl rfl
      rw [hstep, exec_wait_missed (s := b.atTick (t + 1) m) hw (by rwa [State.sample_atTick hoe])
        (by rw [State.atTick_tmr b (by omega)]; show m + 1 < b.par.edgeTimeout; omega), State.atTick_countTick]

/-- A wait entered in a tick that does not show its level. -/
theorem WaitsFor.endsAs (h : WaitsFor L f v site b p) (hk : ∀ t, b.env.level L t = v → EndsAs f (p.atTick t 0) (k t))
    {t : Nat} (ht : b.env.level L t ≠ v) :
    EndsAs f (b.atTick t 0)
      ((firstLook (b.env.level L) v b.par.edgeTimeout t).elim (.timedOut site (t + b.par.edgeTimeout)) k) := by
  obtain ⟨n, hn⟩ := edgeTimeout_succ b.par
  rw [hn, firstLook_missed ht, show t + (n + 1) = t + 1 + n by omega]
  exact h.endsAs_later hk (by omega)

/-- A wait for a fall and the wait for the rise after it; a line that is low at the start has fallen already. -/
theorem endsAs_fallThenRise {pl ph : Phase}
    (hlow : WaitsFor L f false site { b with phase := pl } { b with phase := ph })
    (hhigh : WaitsFor L f true (site + 1) { b with phase := ph } p)
    (hk : ∀ t, b.env.level L t = true → EndsAs f (p.atTick t 0) (k t)) (t : Nat) :
    EndsAs f ({ b with phase := if b.env.level L t = false then ph else pl }.atTick t 0)
      (fallThenRise (b.env.level L) b.par.edgeTimeout site t k) := by
  have hrise (t : Nat) (ht : b.env.level L t = false) :=
    hhigh.endsAs hk (t := t) (by show b.env.level L t ≠ true; simp [ht])
  unfold fallThenRise
  by_cases ht : b.env.level L t = false
  · obtain ⟨n, hn⟩ := edgeTimeout_succ b.par
    rw [if_pos ht, show firstLook (b.env.level L) false b.par.edgeTimeout t = some t by rw [hn, firstLook_seen ht]]
    exact hrise t ht
  · rw [if_neg ht]
    exact hlow.endsAs hrise ht

end

/-! ## The acknowledgement and the bit slots -/

section
variable {L f : Nat} {b : State}

/-- A wait whose passing is known for every state in it that has looks left. -/
theorem Looking.waitsFor {v : Bool} {site : Nat} {p : State} (h : Looking L f b) (hw : b.wait? = some (v, site))
    (hres : p.results = b.results)
    (hp : ∀ t n, (b.atTick t n).tmr.toNat + 1 < (b.atTick t n).par.edgeTimeout → (b.atTick t n).sample L = v →
      exec (.query L f) (b.atTick t n) = .next (p.atTick t 0)) : WaitsFor L f v site b p := by
  obtain ⟨-, -, hoe, -⟩ := id h
  have hlimit := (Params.edgeTimeout_bounds b.par).2
  refine ⟨h, hw, hres, fun t n hn hl => hp t n ?_ ?_⟩
  · rwa [State.atTick_tmr b (by omega)]
  · rwa [State.sample_atTick hoe]

theorem Looking.ackWaitLow (h : Looking L f b) (hst : b.st = .awaitAck) :
    WaitsFor L f false 0 { b with phase := .ackWaitLow } { b with phase := .ackWaitHigh } := by
  refine Looking.waitsFor h (by simp [State.wait?, hst]) rfl fun t n ht hs => ?_
  obtain ⟨hpass, -⟩ := waitPassesToNextPhase _ L f ht
  exact hpass hst rfl hs

theorem Looking.ackWaitHigh (h : Looking L f b) (hst : b.st = .awaitAck) :
    WaitsFor L f true 1 { b with phase := .ackWaitHigh }
      { b with st := .bitSampling, bitIdx := 0, phase := .bitWaitFall } := by
  refine Looking.waitsFor h (by simp [State.wait?, hst]) rfl fun t n ht hs => ?_
  obtain ⟨-, hpass, -⟩ := waitPassesToNextPhase _ L f ht
  exact hpass hst rfl hs

theorem Looking.bitWaitFall (h : Looking L f b) (hst : b.st = .bitSampling) :
    WaitsFor L f false (2 + 2 * b.bitIdx.toNat) { b with phase := .bitWaitFall } { b with phase := .bitWaitRise } := by
  refine Looking.waitsFor h (by simp [State.wait?, hst]) rfl fun t n ht hs => ?_
  obtain ⟨-, -, hpass, -⟩ := waitPassesToNextPhase _ L f ht
  exact hpass hst rfl hs

theorem Looking.bitWaitRise (h : Looking L f b) (hst : b.st = .bitSampling) :
    WaitsFor L f true (2 + 2 * b.bitIdx.toNat + 1) { b with phase := .bitWaitRise } { b with phase := .bitDelay } := by
  refine Looking.waitsFor h (by simp [State.wait?, hst, Nat.add_right_comm]) rfl fun t n ht hs => ?_
  obtain ⟨-, -, -, hpass⟩ := waitPassesToNextPhase _ L f ht
  exact hpass hst rfl hs

/-- The base of a slot that waits for its fall, or for its rise where the line is low at tick `t` already. -/
def State.inSlot (L t : Nat) (b : State) : State :=
  { b with phase := if b.env.level L t = false then .bitWaitRise else .bitWaitFall }

/-- The base after the sample of the current slot, at tick `t`. -/
def State.sampledAt (L t : Nat) (b : State) : State :=
  { b with frame := b.frame.setIfInBounds b.bitIdx.toNat (b.env.level L t), bitIdx := b.bitIdx + 1 }

/-- A bit delay whose sample is not the 40th. -/
theorem Looking.nextSlot (h : Looking L f b) (hst : b.st = .bitSampling) (hph : b.phase = .bitDelay)
    (hi : b.bitIdx.toNat < 39) (rise : Nat) :
    QuietRun 28 (b.atTick rise 0) (((b.sampledAt L (rise + 28)).inSlot L (rise + 28)).atTick (rise + 28) 0) := by
  obtain ⟨hd, hr, hoe, -⟩ := h
  refine QuietRun.delay_over (n := 27) hd (.inr (.inr ⟨hst, hph, rfl⟩)) (State.noResetFor_of_nil hr) ?_
  rw [sampleDecidesTheBit (b.atTick (rise + 27 + 1) 27) L f hst hph rfl hi, State.sample_atTick hoe]
  rfl

/-- A bit delay whose sample is the 40th ends the QUERY. -/
theorem Looking.lastSample (h : Looking L f b) (hst : b.st = .bitSampling) (hph : b.phase = .bitDelay)
    (hi : b.bitIdx.toNat = 39) (rise : Nat) :
    EndsAs f (b.atTick rise 0) (.sampled (b.sampledAt L (rise + 28)).frame (rise + 28)) := by
  obtain ⟨hd, hr, hoe, hv⟩ := h
  have hin : b.InDelay 28 := .inr (.inr ⟨hst, hph, rfl⟩)
  have hrun : QuietRun 27 (b.atTick rise 0) (b.atTick (rise + 27) (0 + 27)) :=
    .delay hd hin (by omega) (State.noResetFor_of_nil hr)
  have hstep : step (b.atTick (rise + 27) 27) = exec (.query L f) (b.atTick (rise + 28) 27) :=
    step_atTick hd hin.busy (by simp [hr])
  have hframe : assembleFrame (b.sampledAt L (rise + 28)).frame =
      assembleFrame (b.frame.setIfInBounds 39 ((b.atTick (rise + 28) 27).sample L)) := by
    rw [State.sample_atTick hoe, State.sampledAt, hi]
  refine EndsAs.before ?_ hrun rfl rfl
  by_cases ha : (assembleFrame (b.sampledAt L (rise + 28)).frame).accepted = true
  · have hend := queryCompletesWithReading (b.atTick (rise + 28) 27) L f _ hst hph rfl hi hframe
      ((ResultBytes.accepted_iff _).1 ha)
    refine ⟨_, _, .single (hstep.trans hend) rfl rfl, rfl, hoe, rfl, ?_⟩
    rw [if_pos ha]
    exact ⟨rfl, rfl, rfl, rfl⟩
  · have hend := queryRejectsBadChecksum (b.atTick (rise + 28) 27) L f _ hst hph rfl hi hframe
      (mt (ResultBytes.accepted_iff _).2 ha)
    refine ⟨_, _, .single (hstep.trans hend) rfl rfl, rfl, hoe, rfl, ?_⟩
    rw [if_neg ha, mismatchInfo_eq]
    exact ⟨rfl, rfl, hv, rfl⟩

/-- The slots from the current one on, by induction on how many are left. -/
theorem Looking.slots {n : Nat} (h : Looking L f b) (hst : b.st = .bitSampling) (hi : b.bitIdx.toNat + n = 39)
    (t : Nat) :
    EndsAs f ((b.inSlot L t).atTick t 0)
      (sampleSlots (b.env.level L) b.par.edgeTimeout (n + 1) b.bitIdx.toNat t b.frame) := by
  induction n generalizing b t with
  | zero =>
    rw [sampleSlots_succ]
    exact endsAs_fallThenRise (h.bitWaitFall hst) (h.bitWaitRise hst)
      (fun rise _ => Looking.lastSample (b := { b with phase := .bitDelay }) h hst rfl hi rise) t
  | succ n ih =>
    rw [sampleSlots_succ]
    refine endsAs_fallThenRise (h.bitWaitFall hst) (h.bitWaitRise hst) (fun rise _ => ?_) t
    have hnext : (b.sampledAt L (rise + 28)).bitIdx.toNat = b.bitIdx.toNat + 1 := by
      rw [State.sampledAt, bitIdx_succ]
      omega
    have hrest := ih (b := b.sampledAt L (rise + 28)) h hst (by omega) (rise + 28)
    rw [hnext] at hrest
    have hi' : b.bitIdx.toNat < 39 := by omega
    exact hrest.before (Looking.nextSlot (b := { b with phase := .bitDelay }) h hst rfl hi' rise) rfl rfl

/-- The acknowledgement and all 40 slots. -/
theorem Looking.acknowledgement (h : Looking L f b) (hst : b.st = .awaitAck) (t : Nat) :
    EndsAs f ({ b with phase := if b.env.level L t = false then .ackWaitHigh else .ackWaitLow }.atTick t 0)
      (fallThenRise (b.env.level L) b.par.edgeTimeout 0 t fun ackEnd =>
        sampleSlots (b.env.level L) b.par.edgeTimeout nBits 0 ackEnd b.frame) := by
  refine endsAs_fallThenRise (h.ackWaitLow hst) (h.ackWaitHigh hst) (fun ackEnd hhigh => ?_) t
  have hslots := Looking.slots (b := { b with st := .bitSampling, bitIdx := 0 }) (n := 39) h rfl rfl ackEnd
  rw [State.inSlot, if_neg (by show ¬b.env.level L ackEnd = false; simp [hhigh])] at hslots
  exact hslots

end

/-! ## The whole QUERY -/

/-- From its request pulse on, entered at tick `t`. -/
theorem endsAs_afterPulsing {L f : Nat} {w : CmdWord} {s : State} (hd : decode w = .ok (.query L f))
    (hr : s.env.rstTicks = []) (t : Nat) :
    EndsAs f ((s.pulsing L w).atTick t 0)
      (fallThenRise (s.env.level L) s.par.edgeTimeout 0 (t + tReqLow + tReqWait) fun ackEnd =>
        sampleSlots (s.env.level L) s.par.edgeTimeout nBits 0 ackEnd s.frame) := by
  have hlook : Looking L f { s.pulsed L w with st := .awaitAck } := ⟨hd, hr, s.pulsed_sdOe L w, rfl⟩
  have hends : EndsAs f ((s.firstLooking L w (t + 18000 + 20)).atTick (t + 18000 + 20) 0) _ :=
    hlook.acknowledgement rfl _
  have hsettled := hends.before (.settle hd (State.noResetFor_of_nil hr)) rfl rfl
  exact hsettled.before (.pulse hd (State.noResetFor_of_nil hr)) rfl rfl

/-- An accepted QUERY, with no reset to come, ends as the pseudocode's timeline says. -/
theorem endsAs_queryTimeline {L f : Nat} {w : CmdWord} {s : State} (hok : StateOk s) (ha : s.accepts w)
    (hd : decode w = .ok (.query L f)) (hl : queryIllegal s.par L f = none) (hr : s.env.rstTicks = []) :
    EndsAs f s (queryTimeline (s.env.level L) s.par.edgeTimeout (s.env.now + 1) s.frame) := by
  rw [queryTimeline_eq]
  exact (endsAs_afterPulsing hd hr _).before (.accept hok ha hd hl) rfl rfl

/-- Settles O28: `endsAs_queryTimeline`, with the end spelled out. -/
theorem queryRefinesPseudocode : Obligations.QueryRefinesPseudocode := by
  intro s w L f hok ha hd hL hf hr
  have hends := endsAs_queryTimeline hok ha hd (queryIllegal_eq_none.2 ⟨hL, hf⟩) hr
  cases hq : queryTimeline (s.env.level L) s.par.edgeTimeout (s.env.now + 1) s.frame with
  | timedOut site tick =>
    rw [hq] at hends
    obtain ⟨t, hans, hst, hoe, hres, hv⟩ := hends
    obtain ⟨hs, hnow, htrace⟩ := hans.sub
    obtain ⟨hrb, hhum, htemp⟩ := State.results_eq_iff.1 hres
    exact ⟨t, hs, hnow, hst, hoe, hrb, hhum, htemp, hv, htrace⟩
  | sampled frame tick =>
    rw [hq] at hends
    obtain ⟨t, v, hans, hst, hoe, hrb, hend⟩ := hends
    obtain ⟨hs, hnow, htrace⟩ := hans.sub
    refine ⟨t, hs, hnow, hst, hoe, hrb, ?_⟩
    rw [htrace]
    by_cases hacc : (assembleFrame frame).accepted = true
    · rw [if_pos hacc] at hend ⊢
      obtain ⟨hhum, htemp, hv, rfl⟩ := hend
      exact ⟨hhum, htemp, hv, rfl⟩
    · rw [if_neg hacc] at hend ⊢
      obtain ⟨hhum, htemp, hv, rfl⟩ := hend
      exact ⟨hhum, htemp, hv, rfl⟩

end Sys2Proof.Machine
end

section
/-! PROOFS. RDREG (41_register_read R170): the numbered registers, and the one response of its acceptance tick. -/

namespace Sys2Proof.Machine

/-! ## The numbered registers -/

/-- No register has a number above 7 (10_state R40). -/
theorem State.readReg_of_seven_lt (s : State) {n : Nat} (hn : 7 < n) : s.readReg n = none := by
  unfold State.readReg
  split
  case h_9 => rfl
  all_goals omega

/-! ## The response word of a register -/

/-- OK with any info word is that word zero-extended. -/
theorem responseWord_ok (info : Word32) : responseWord .ok info = info.setWidth 40 :=
  (BitVec.setWidth_eq_append (by decide)).symm

/-- A register narrower than the info word stands at its low end, below zeros (10_state R40, 30_encoding R100). -/
theorem responseWord_ok_setWidth {w : Nat} (v : BitVec w) (hw : w ≤ 32) :
    responseWord .ok (v.setWidth 32) = ((0 : BitVec (40 - w)) ++ v).cast (by omega) := by
  have hext : (v.setWidth 32).setWidth 40 = v.setWidth 40 := by
    apply BitVec.eq_of_toNat_eq
    rw [BitVec.toNat_setWidth_of_le (by decide), BitVec.toNat_setWidth_of_le hw, BitVec.toNat_setWidth_of_le (by omega)]
  rw [responseWord_ok, hext]
  exact BitVec.setWidth_eq_append (by omega)

/-! ## The acceptance tick -/

section
variable {s : State} {n : Nat} (hst : s.st = .idle) (hph : s.phase = .none)
include hst hph

/-- In IDLE a command that ends changes nothing but the response. -/
theorem State.endCommand_of_idle (x : Status) (v : Word32) :
    s.endCommand x v = { s with rsp := some (responseWord x v) } := by
  rw [State.endCommand, ← hst, ← hph]

/-- A numbered register is answered with OK and its value. -/
theorem exec_rdreg_of_some {v : Word32} (hv : s.readReg n = some v) :
    exec (.rdreg n) s = .next { s with rsp := some (responseWord .ok v) } := by
  rw [← State.endCommand_of_idle hst hph, exec_rdreg, execRdreg, hst, hv]
  rfl

/-- Any other number is answered with RangeError of operand 0 (30_encoding R102). -/
theorem exec_rdreg_of_none (hv : s.readReg n = none) :
    exec (.rdreg n) s = .next { s with rsp := some (responseWord .rangeError 0) } := by
  rw [← State.endCommand_of_idle hst hph, exec_rdreg, execRdreg, hst, hv]
  rfl

/-- A register of fewer bits is answered with OK and its value below zeros. -/
theorem exec_rdreg_of_setWidth {w : Nat} (v : BitVec w) (hw : w ≤ 32) (hv : s.readReg n = some (v.setWidth 32)) :
    exec (.rdreg n) s = .next { s with rsp := some (((0 : BitVec (40 - w)) ++ v).cast (by omega)) } := by
  rw [exec_rdreg_of_some hst hph hv, responseWord_ok_setWidth v hw]

end

/-- Settles O31: register by register in the order of 10_state R40, then the numbers above 7. -/
theorem rdregAnswersRegister : Obligations.RdregAnswersRegister := by
  intro s hst hph
  refine ⟨?status, ?hum, ?temp, ?rblo, ?rbhi, ?addr, ?freq, ?prescale, fun n hn => ?above⟩
  case status | hum | temp | rblo => exact exec_rdreg_of_some hst hph rfl
  case rbhi => exact exec_rdreg_of_setWidth hst hph s.rb.rb4 (by decide) rfl
  case addr => exact exec_rdreg_of_setWidth hst hph s.par.i2cAddr (by decide) rfl
  case freq => exact exec_rdreg_of_setWidth hst hph s.cfgFreq (by decide) rfl
  case prescale => exact exec_rdreg_of_setWidth hst hph s.cfgPrescale (by decide) rfl
  case above => exact exec_rdreg_of_none hst hph (s.readReg_of_seven_lt hn)

end Sys2Proof.Machine
end

section
/-! PROOFS. The sequencer of units 2 and 3 against its pseudocode (42_pwm_driver R180, R184, R188, R194): what the
timeline does at a transaction (`seqTimeline_passes` and its like), how a command ends from the state a tick leaves on
(`EndsSeq`), what each wait leads to, and all together by induction over the actions left to do (`endsRest`). -/

namespace Sys2Proof.Machine

open Sys2Proof.Config

/-! ## The acceptance tick -/

theorem execPwm_idle {illegal : Option Nat} {body : List Action} {s : State} (hst : s.st = .idle) :
    execPwm illegal body s = .next (s.acceptPwm illegal body) := by
  unfold execPwm
  rw [hst]

/-- Legal operands: the sequence starts (42_pwm_driver R180). -/
theorem execPwm_accepts {illegal : Option Nat} {body : List Action} {s : State} (hst : s.st = .idle)
    (hk : illegal = none) : execPwm illegal body s = .next (s.startSeq.resumeSeq body) := by
  rw [execPwm_idle hst, hk]
  rfl

/-! ## The timeline, one action at a time -/

/-- A request is issued and counted (30_encoding R105). -/
def SeqView.requested (req : I2cRequest) (v : SeqView) : SeqView :=
  { v with txn := v.txn + 1, requests := v.requests ++ [(v.now, req)] }

/-- Its answer comes `l` ticks later, without an error; a read stores its byte (42_pwm_driver R188). -/
def SeqView.answered (req : I2cRequest) (l : Nat) (data : Byte) (v : SeqView) : SeqView :=
  { v.requested req with now := v.now + l, oldMode := if req.rw then data else v.oldMode }

section
variable {p : Params} {answer : Nat → I2cAnswer} {a : Action} {rest : List Action} {v : SeqView}

/-- An action that is no transaction. -/
theorem seqTimeline_local (hr : a.request? p v.oldMode = none) :
    seqTimeline p answer (a :: rest) v = seqTimeline p answer rest (v.local a) := by
  rw [seqTimeline, hr]

section
variable {req : I2cRequest} (hr : a.request? p v.oldMode = some req)
include hr

/-- The answer never comes (60_exceptions R247). -/
theorem seqTimeline_hangs (hl : (answer v.txn).latency = none) :
    seqTimeline p answer (a :: rest) v = .hangs (v.requested req) := by
  simp only [seqTimeline, hr, hl]
  rfl

/-- The answer is an error (42_pwm_driver R194). -/
theorem seqTimeline_fails {l : Nat} (hl : (answer v.txn).latency = some l) (he : (answer v.txn).err = true) :
    seqTimeline p answer (a :: rest) v =
      .responds .transportError v.txn { v.requested req with now := v.now + l } := by
  simp only [seqTimeline, hr, hl, he]
  rfl

/-- The answer is no error, and the sequence goes on at its tick (42_pwm_driver R195). -/
theorem seqTimeline_passes {l : Nat} (hl : (answer v.txn).latency = some l) (he : (answer v.txn).err = false) :
    seqTimeline p answer (a :: rest) v =
      seqTimeline p answer rest (v.answered req l (answer v.txn).data) := by
  simp only [seqTimeline, hr, hl, he]
  cases hrw : req.rw <;> simp [SeqView.answered, SeqView.requested, hrw]

end
end

/-! ## Runs and their requests -/

/-- The requests pulsed in the tick that led to the state, with that tick. -/
def State.sent (s : State) : List (Nat × I2cRequest) := s.i2cReq.map fun r => (s.env.now, r)

/-- The response pulsed in the tick that led to the state, with that tick. -/
def State.replied (s : State) : List (Nat × RspWord) := s.rsp.toList.map fun w => (s.env.now, w)

theorem State.replied_of_silent {s : State} (h : s.rsp = none) : s.replied = [] := by
  rw [State.replied, h]
  rfl

theorem requestTrace_succ {n : Nat} {s u : State} (h : step s = .next u) :
    requestTrace (n + 1) s = u.sent ++ requestTrace n u := by
  simp only [requestTrace, h]
  rfl

theorem responseTrace_succ {n : Nat} {s u : State} (h : step s = .next u) :
    responseTrace (n + 1) s = u.replied ++ responseTrace n u := by
  simp only [responseTrace, h]
  rfl

/-- Where a sequence stands, as the pseudocode sees it, after the requests `past` of earlier ticks. -/
def State.seqView (past : List (Nat × I2cRequest)) (s : State) : SeqView :=
  ⟨s.env.now, s.txn.toNat, past ++ s.sent, s.oldMode, s.inited, s.cfgFreq, s.cfgPrescale⟩

/-- From `s` on the command ends as the timeline says, where `reqs` and `rsps` are the requests and the responses so
far. -/
def EndsFrom (reqs : List (Nat × I2cRequest)) (rsps : List (Nat × RspWord)) (s : State) : SeqEnd → Prop
  | .responds status info v =>
    ∃ n t, v.now = s.env.now + n ∧ stepN n s = .next t ∧ t.env.now = v.now ∧ t.st = .idle ∧ t.inited = v.inited ∧
      t.cfgFreq = v.cfgFreq ∧ t.cfgPrescale = v.cfgPrescale ∧ t.oldMode = v.oldMode ∧
      reqs ++ requestTrace n s = v.requests ∧
      rsps ++ responseTrace n s = [(v.now, responseWord status (BitVec.ofNat 32 info))]
  | .hangs v =>
    s.env.now ≤ v.now ∧ ∀ n, v.now ≤ s.env.now + n → ∃ t, stepN n s = .next t ∧ t.st = .pwmSeq ∧
      t.phase = .i2cWait ∧ reqs ++ requestTrace n s = v.requests ∧ rsps ++ responseTrace n s = []

/-- One tick earlier, before what it pulsed. -/
theorem EndsFrom.before {reqs : List (Nat × I2cRequest)} {rsps : List (Nat × RspWord)} {s u : State} {e : SeqEnd}
    (h : EndsFrom (reqs ++ u.sent) (rsps ++ u.replied) u e) (hs : step s = .next u)
    (hn : u.env.now = s.env.now + 1) : EndsFrom reqs rsps s e := by
  have hreq (n : Nat) : reqs ++ requestTrace (n + 1) s = reqs ++ u.sent ++ requestTrace n u := by
    rw [requestTrace_succ hs, List.append_assoc]
  have hrsp (n : Nat) : rsps ++ responseTrace (n + 1) s = rsps ++ u.replied ++ responseTrace n u := by
    rw [responseTrace_succ hs, List.append_assoc]
  cases e with
  | responds status info v =>
    obtain ⟨n, t, hnow, hstep, htn, hst, hin, hf, hp, hold, htr, hans⟩ := h
    exact ⟨n + 1, t, by omega, (stepN_succ hs).trans hstep, htn, hst, hin, hf, hp, hold, (hreq n).trans htr,
      (hrsp n).trans hans⟩
  | hangs v =>
    obtain ⟨hle, hrun⟩ := h
    refine ⟨by omega, fun n hn' => ?_⟩
    obtain ⟨m, rfl⟩ : ∃ m, n = m + 1 := ⟨n - 1, by omega⟩
    obtain ⟨t, hstep, hst, hph, htr, hans⟩ := hrun m (by omega)
    exact ⟨t, (stepN_succ hs).trans hstep, hst, hph, (hreq m).trans htr, (hrsp m).trans hans⟩

/-- The same from the tick that led to `u` on, with the requests `past` before it and no response yet. -/
def EndsSeq (past : List (Nat × I2cRequest)) (u : State) (e : SeqEnd) : Prop :=
  EndsFrom (past ++ u.sent) u.replied u e

/-- One tick earlier, where that tick sent no response. -/
theorem EndsSeq.before {past : List (Nat × I2cRequest)} {s u : State} {e : SeqEnd} (h : EndsSeq (past ++ s.sent) u e)
    (hs : step s = .next u) (hn : u.env.now = s.env.now + 1) (hr : s.rsp = none) : EndsSeq past s e := by
  refine EndsFrom.before ?_ hs hn
  rw [State.replied_of_silent hr]
  exact h

/-- The command has ended in the tick that led to `u`. -/
theorem EndsSeq.ended {past : List (Nat × I2cRequest)} {u : State} {status : Status} {info : Nat} (hst : u.st = .idle)
    (hr : u.rsp = some (responseWord status (BitVec.ofNat 32 info))) (v : SeqView) (hn : v.now = u.env.now)
    (hreq : v.requests = past ++ u.sent) (hin : v.inited = u.inited) (hf : v.cfgFreq = u.cfgFreq)
    (hp : v.cfgPrescale = u.cfgPrescale) (hold : v.oldMode = u.oldMode) : EndsSeq past u (.responds status info v) :=
  ⟨0, u, hn, rfl, hn.symm, hst, hin.symm, hf.symm, hp.symm, hold.symm, by rw [hreq]; exact List.append_nil _,
    by rw [State.replied, hr, hn]; rfl⟩

/-! ## The waits -/

/-- A command of units 2 and 3 is in progress in `u`, and no reset is scheduled. -/
structure InSeq (i : Instr) (body : List Action) (u : State) : Prop where
  ok : StateOk u
  st : u.st = .pwmSeq
  cmd : decode u.cmd = .ok i
  spells : pwmBody u.par i = some body
  resets : u.env.rstTicks = []
  silent : u.rsp = none

/-- The tick `k` ticks after `u` has begun, with nothing pulsed. -/
def State.later (k : Nat) (u : State) : State :=
  { u with rsp := none, i2cReq := [], env := { u.env with now := u.env.now + k } }

theorem State.later_succ (k : Nat) (u : State) : u.later (k + 1) = u.nextTick.later k := by
  simp only [State.later, State.nextTick, Nat.add_assoc, Nat.add_comm 1]

section
variable {i : Instr} {body : List Action} {u : State}

theorem InSeq.step_eq (h : InSeq i body u) :
    step u = execPwm (illegalOperand u.par i) body u.nextTick := by
  rw [stepContinuesCommandInProgress u i (by simp [h.st]) (by simp [h.resets]) h.cmd]
  exact exec_of_pwmBody (s := u.nextTick) h.spells

theorem InSeq.step_i2cWait (h : InSeq i body u) (hph : u.phase = .i2cWait) :
    step u = .next (u.nextTick.transferTick (State.resumeSeq body)) :=
  h.step_eq.trans (execPwm_i2cWait (s := u.nextTick) h.st hph)

theorem InSeq.step_oscWait (h : InSeq i body u) (hph : u.phase = .oscWait) :
    step u = .next (u.nextTick.delayTick tOscWait fun s => { s with phase := .none }.resumeSeq body) :=
  h.step_eq.trans (execPwm_oscWait (s := u.nextTick) h.st hph)

/-- A tick that only counts leaves the sequence in progress. -/
theorem InSeq.next {t : State} (h : InSeq i body u) (hs : step u = .next t) (hst : t.st = u.st) (hcmd : t.cmd = u.cmd)
    (hpar : t.par = u.par) (hres : t.env.rstTicks = u.env.rstTicks) (hr : t.rsp = none) : InSeq i body t :=
  ⟨stepKeepsInvariant u t h.ok hs, hst.trans h.st, by rw [hcmd, h.cmd], by rw [hpar, h.spells], hres.trans h.resets, hr⟩

/-- A transaction that is never answered (60_exceptions R247). -/
theorem InSeq.hangs_run (h : InSeq i body u) (hph : u.phase = .i2cWait) {x : Transfer} (hx : u.env.xfer = some x)
    (hl : x.left = none) (n : Nat) : ∃ t, stepN n u = .next t ∧ t.st = .pwmSeq ∧ t.phase = .i2cWait ∧
      requestTrace n u = [] ∧ responseTrace n u = [] := by
  induction n generalizing u with
  | zero => exact ⟨u, rfl, h.st, hph, rfl, rfl⟩
  | succ n ih =>
    have hs : step u = .next u.nextTick := by
      rw [h.step_i2cWait hph, State.transferTick_never (s := u.nextTick) hx hl]
    obtain ⟨t, hrun, hst, htph, hreq, hrsp⟩ := ih (h.next hs rfl rfl rfl rfl rfl) hph hx
    exact ⟨t, (stepN_succ hs).trans hrun, hst, htph, by rw [requestTrace_succ hs, hreq]; rfl,
      by rw [responseTrace_succ hs, hrsp]; rfl⟩

/-- The answer of the outstanding transaction comes at this tick. -/
def State.arrived (body : List Action) (x : Transfer) (s : State) : State :=
  if x.err = true then
    { s with phase := .none, env := { s.env with xfer := none } }.raise .transportError ((s.txn - 1).setWidth 32)
  else (s.answered x).resumeSeq body

theorem State.arrived_fails {s : State} {x : Transfer} (he : x.err = true) : s.arrived body x =
    { s with phase := .none, env := { s.env with xfer := none } }.raise .transportError ((s.txn - 1).setWidth 32) :=
  if_pos he

theorem State.arrived_passes {s : State} {x : Transfer} (he : x.err = false) :
    s.arrived body x = (s.answered x).resumeSeq body := if_neg (by simp [he])

theorem State.transferTick_due {s : State} {x : Transfer} (hx : s.env.xfer = some x) (hl : x.left = some 1) :
    s.transferTick (State.resumeSeq body) = s.arrived body x := by
  cases he : x.err
  · rw [State.arrived_passes he, State.transferTick_answered hx hl le_rfl he]
  · rw [State.arrived_fails he, State.transferTick_fails hx hl le_rfl he]

theorem InSeq.now_next {t : State} (h : InSeq i body u) (hs : step u = .next t) : t.env.now = u.env.now + 1 := by
  have hframe := (execPwm_tick (h.step_eq.symm.trans hs)).keepsFrame.beside
  exact (congrArg (·.env.now) hframe :)

/-- An answer `l + 1` ticks away: what its arrival leads to is how the command ends. -/
theorem InSeq.endsSeq_transfer {past : List (Nat × I2cRequest)} {e : SeqEnd} {x : Transfer} {l : Nat}
    (h : InSeq i body u) (hph : u.phase = .i2cWait) (hx : u.env.xfer = some x) (hl : x.left = some (l + 1))
    (harr : EndsSeq (past ++ u.sent) ((u.later (l + 1)).arrived body x) e) : EndsSeq past u e := by
  have hs := h.step_i2cWait hph
  induction l generalizing u past x with
  | zero =>
    rw [State.transferTick_due (s := u.nextTick) hx hl] at hs
    exact harr.before hs (h.now_next hs) h.silent
  | succ l ih =>
    rw [State.transferTick_later (s := u.nextTick) hx hl] at hs
    have hnext := h.next hs rfl rfl rfl rfl rfl
    refine EndsSeq.before (ih hnext hph rfl rfl ?_ (hnext.step_i2cWait hph)) hs rfl h.silent
    rw [State.later_succ] at harr
    show EndsSeq (past ++ u.sent ++ []) ((u.nextTick.later (l + 1)).arrived body x) e
    rwa [List.append_nil]

/-- The oscillator delay with `k + 1` ticks left: what its end leads to, whatever TMR holds then, is how the command
ends. -/
theorem InSeq.endsSeq_delay {past : List (Nat × I2cRequest)} {e : SeqEnd} {k : Nat} (h : InSeq i body u)
    (hph : u.phase = .oscWait) (ht : u.tmr.toNat + (k + 1) = tOscWait)
    (hover : ∀ n, EndsSeq (past ++ u.sent) ({ u.later (k + 1) with tmr := n, phase := .none }.resumeSeq body) e) :
    EndsSeq past u e := by
  have hs := h.step_oscWait hph
  induction k generalizing u past with
  | zero =>
    rw [State.delayTick_over (s := u.nextTick) ht (by decide)] at hs
    exact (hover (u.tmr + 1)).before hs (h.now_next hs) h.silent
  | succ k ih =>
    have ht1 : u.tmr.toNat + 1 + (k + 1) = tOscWait := by omega
    rw [State.delayTick_running (s := u.nextTick) (show u.tmr.toNat + 1 < tOscWait by omega) (by decide)] at hs
    have hnext := h.next hs rfl rfl rfl rfl rfl
    have hcount : u.nextTick.countTick.tmr.toNat = u.tmr.toNat + 1 :=
      State.countTick_toNat (s := u.nextTick) (by rw [State.nextTick_tmr]; unfold tOscWait at ht1; omega)
    refine EndsSeq.before (ih hnext hph (by rw [hcount, ht1]) (fun n => ?_) (hnext.step_oscWait hph)) hs rfl h.silent
    have hn := hover n
    rw [State.later_succ] at hn
    show EndsSeq (past ++ u.sent ++ []) ({ u.nextTick.later (k + 1) with tmr := n, phase := .none }.resumeSeq body) e
    rwa [List.append_nil]

end

/-! ## The answers of the environment -/

/-- The environment's answer to the `n`-th transaction from here on: the script's, or a free one (10_state R45). -/
def Env.answerAt (e : Env) (n : Nat) : I2cAnswer := (e.answers[n]?).getD (freeAnswer (e.serial + n))

theorem Env.nextAnswer_eq (e : Env) : e.nextAnswer = e.answerAt 0 := by
  unfold Env.nextAnswer Env.answerAt
  cases e.answers <;> rfl

theorem Env.countRequest_answerAt (e : Env) (n : Nat) : e.countRequest.answerAt n = e.answerAt (n + 1) := by
  simp only [Env.answerAt, Env.countRequest, List.getElem?_tail, Nat.add_assoc, Nat.add_comm 1]

/-- The next transaction, as the transport takes it up with this request. -/
def Env.transfer (req : I2cRequest) (e : Env) : Transfer :=
  ⟨req.rw, e.nextAnswer.latency, e.nextAnswer.err, e.nextAnswer.data⟩

/-- TXN counts a sequence's transactions without wrapping (10_state R25). -/
theorem SeqCounted.txn_succ {i : Instr} {body : List Action} {s : State} (h : SeqCounted i body s) :
    (s.txn + 1).toNat = s.txn.toNat + 1 := by
  have hle := fun l : List Action => (transfers_le (l.take s.seq.toNat)).trans (List.length_take_le' _ _)
  have hprog := State.program_length h.spells
  obtain ⟨hbody, -⟩ := pwmBody_facts h.spells
  rw [BitVec.toNat_add]
  refine Nat.mod_eq_of_lt ?_
  show s.txn.toNat + 1 < 256
  rcases h.txn with ht | ⟨-, ht⟩
  · have := hle (s.program body)
    omega
  · have := hle body
    omega

/-! ## The whole sequence -/

/-- A sequence that goes on at this tick, with no reset scheduled, no response sent, and `answer` what the environment
will answer. -/
structure SeqTimed (i : Instr) (body : List Action) (answer : Nat → I2cAnswer) (s : State) : Prop where
  ready : SeqReady i body s
  answers : ∀ n, answer (s.txn.toNat + n) = s.env.answerAt n
  resets : s.env.rstTicks = []
  silent : s.rsp = none

section
variable {i : Instr} {body rest : List Action} {answer : Nat → I2cAnswer} {a : Action} {s : State}
  {past : List (Nat × I2cRequest)}

theorem SeqTimed.nextAnswer (h : SeqTimed i body answer s) : answer s.txn.toNat = s.env.nextAnswer := by
  rw [Env.nextAnswer_eq]
  exact h.answers 0

/-- The view of a state in which the step's transaction has been answered `l` ticks later without an error. -/
theorem SeqTimed.seqView_answered {t : State} {past' : List (Nat × I2cRequest)} {req : I2cRequest} {l : Nat}
    (h : SeqTimed i body answer s) (hn : t.env.now = s.env.now + l) (htxn : t.txn = s.txn + 1)
    (hreq : past' ++ t.sent = past ++ s.sent ++ [(s.env.now, req)])
    (hold : t.oldMode = if req.rw then s.env.nextAnswer.data else s.oldMode) (hin : t.inited = s.inited)
    (hf : t.cfgFreq = s.cfgFreq) (hp : t.cfgPrescale = s.cfgPrescale) :
    t.seqView past' = (s.seqView past).answered req l (answer (s.seqView past).txn).data := by
  rw [show answer (s.seqView past).txn = s.env.nextAnswer from h.nextAnswer, State.seqView, hn, htxn,
    h.ready.counted.txn_succ, hreq, hold, hin, hf, hp]
  rfl

/-! The timeline from the sequence's own view on, the answer being the environment's next one. -/

section
variable {req : I2cRequest} (h : SeqTimed i body answer s) (hreq : a.request? s.par s.oldMode = some req)
include h hreq

theorem SeqTimed.timeline_hangs (hl : s.env.nextAnswer.latency = none) :
    seqTimeline s.par answer (a :: rest) (s.seqView past) = .hangs ((s.seqView past).requested req) :=
  seqTimeline_hangs (v := s.seqView past) hreq ((congrArg _ h.nextAnswer).trans hl)

theorem SeqTimed.timeline_fails {l : Nat} (hl : s.env.nextAnswer.latency = some l) (he : s.env.nextAnswer.err = true) :
    seqTimeline s.par answer (a :: rest) (s.seqView past) =
      .responds .transportError s.txn.toNat { (s.seqView past).requested req with now := s.env.now + l } :=
  seqTimeline_fails (v := s.seqView past) hreq ((congrArg _ h.nextAnswer).trans hl)
    ((congrArg _ h.nextAnswer).trans he)

theorem SeqTimed.timeline_passes {l : Nat} (hl : s.env.nextAnswer.latency = some l)
    (he : s.env.nextAnswer.err = false) :
    seqTimeline s.par answer (a :: rest) (s.seqView past) = seqTimeline s.par answer rest
      ((s.seqView past).answered req l (answer (s.seqView past).txn).data) :=
  seqTimeline_passes (v := s.seqView past) hreq ((congrArg _ h.nextAnswer).trans hl)
    ((congrArg _ h.nextAnswer).trans he)

end

/-- After one more transaction the answers are those from the next one on. -/
theorem SeqTimed.answers_next (h : SeqTimed i body answer s) (n : Nat) :
    answer ((s.txn + 1).toNat + n) = s.env.countRequest.answerAt n := by
  rw [h.ready.counted.txn_succ, Env.countRequest_answerAt, ← h.answers, Nat.add_assoc, Nat.add_comm 1]

/-- A sequence that waits after the action `a`. -/
theorem SeqTimed.inSeq {u : State} (h : SeqTimed i body answer s) (hp : s.pendingActions body = a :: rest)
    (ho : ActOutcome a s.nextSeq (.stop u)) (hst : u.st = .pwmSeq) (hr : u.rsp = none) :
    InSeq i body u ∧ u.pendingActions body = rest := by
  obtain ⟨hok, hpend⟩ := h.ready.stop hp ho
  have hframe := ho.keepsFrame.beside
  have hcmd : u.cmd = s.cmd := (congrArg State.cmd hframe :)
  have hpar : u.par = s.par := (congrArg State.par hframe :)
  have hres : u.env.rstTicks = s.env.rstTicks := (congrArg (·.env.rstTicks) hframe :)
  exact ⟨⟨hok, hst, by rw [hcmd, h.ready.counted.cmd], by rw [hpar, h.ready.counted.spells], hres.trans h.resets, hr⟩,
    hpend.resolve_left (by simp [hst])⟩

theorem InSeq.later_ok {u : State} (h : InSeq i body u) (k : Nat) : StateOk (u.later k) :=
  ⟨h.ok.control, h.ok.lines, h.ok.pullups, h.ok.reading, h.ok.config, h.ok.quiet⟩

theorem State.sent_append (s : State) (req : I2cRequest) :
    (s.i2cReq ++ [req]).map (fun r => (s.env.now, r)) = s.sent ++ [(s.env.now, req)] := by
  rw [List.map_append]
  rfl

/-- The info word of a failed transaction is the number of those before it (30_encoding R102). -/
theorem transportError_info (n : BitVec 8) : (n + 1 - 1).setWidth 32 = BitVec.ofNat 32 n.toNat := by
  rw [BitVec.add_sub_cancel, BitVec.ofNat_toNat]

/-- What is proved of the actions left by the induction over them. -/
def EndsRest (i : Instr) (body : List Action) (answer : Nat → I2cAnswer) (rest : List Action) : Prop :=
  ∀ (s : State) (past : List (Nat × I2cRequest)), SeqTimed i body answer s → s.pendingActions body = rest →
    EndsSeq past (s.runActions rest) (seqTimeline s.par answer rest (s.seqView past))

/-- The step's transaction with this request, answered `k` ticks later without an error. -/
def State.answeredLater (req : I2cRequest) (k : Nat) (s : State) : State :=
  ((s.nextSeq.awaiting req).later k).answered (s.env.transfer req)

/-- A transaction whose answer does not come at once. -/
theorem SeqTimed.endsSeq_awaits {req : I2cRequest} (ih : EndsRest i body answer rest)
    (h : SeqTimed i body answer s) (hp : s.pendingActions body = a :: rest)
    (hreq : a.request? s.par s.oldMode = some req) (hl : s.env.nextAnswer.latency ≠ some 0) :
    EndsSeq past (s.nextSeq.awaiting req) (seqTimeline s.par answer (a :: rest) (s.seqView past)) := by
  obtain ⟨hin, hpend⟩ := h.inSeq hp (.awaits (s := s.nextSeq) req hreq hl) h.ready.st h.silent
  have hsent : past ++ (s.nextSeq.awaiting req).sent = past ++ s.sent ++ [(s.env.now, req)] :=
    (congrArg _ (s.sent_append req)).trans (List.append_assoc ..).symm
  cases hlat : s.env.nextAnswer.latency with
  | none =>
    rw [h.timeline_hangs hreq hlat]
    refine ⟨le_rfl, fun n _ => ?_⟩
    obtain ⟨t, hrun, hst, hph, hr, hrsp⟩ := hin.hangs_run rfl rfl hlat n
    refine ⟨t, hrun, hst, hph, ?_, ?_⟩
    · rw [hr, hsent, List.append_nil]
      rfl
    · rw [hrsp, State.replied_of_silent hin.silent, List.append_nil]
  | some l =>
    have hl0 : l ≠ 0 := fun h0 => hl (by rw [hlat, h0])
    obtain ⟨m, rfl⟩ : ∃ m, l = m + 1 := ⟨l - 1, by omega⟩
    refine hin.endsSeq_transfer (x := s.env.transfer req) rfl rfl hlat ?_
    rw [hsent]
    cases he : s.env.nextAnswer.err with
    | true =>
      rw [h.timeline_fails hreq hlat he, State.arrived_fails (x := s.env.transfer req) he]
      exact .ended rfl (congrArg (fun x => some (responseWord .transportError x)) (transportError_info s.txn)) _ rfl
        (List.append_nil _).symm rfl rfl rfl rfl
    | false =>
      rw [h.timeline_passes hreq hlat he, State.arrived_passes (x := s.env.transfer req) he, State.resumeSeq,
        ← State.answeredLater, ← h.seqView_answered (t := s.answeredLater req (m + 1)) rfl rfl (List.append_nil _) rfl
          rfl rfl rfl]
      have hres : (s.answeredLater req (m + 1)).pendingActions body = rest := hpend
      rw [hres]
      exact ih _ _ ⟨.ofAnswered (hin.later_ok _) hin.st hin.cmd hin.spells _, h.answers_next, h.resets, rfl⟩ hres

/-- The oscillator wait that begins in `s`. -/
def State.settling (s : State) : State := { s.nextSeq with phase := .oscWait, tmr := 0 }

/-- The wait is over, and TMR holds `n`. -/
def State.settled (n : BitVec 32) (s : State) : State := { s.settling.later tOscWait with tmr := n, phase := .none }

/-- The oscillator wait. -/
theorem SeqTimed.endsSeq_waits (ih : EndsRest i body answer rest) (h : SeqTimed i body answer s)
    (hp : s.pendingActions body = .oscWait :: rest) :
    EndsSeq past s.settling (seqTimeline s.par answer (.oscWait :: rest) (s.seqView past)) := by
  obtain ⟨hin, hpend⟩ := h.inSeq hp (.waits rfl) h.ready.st h.silent
  rw [seqTimeline_local rfl]
  refine InSeq.endsSeq_delay (u := s.settling) (k := 4999) hin rfl rfl fun n => ?_
  have hview : (s.seqView past).local .oscWait = (s.settled n).seqView (past ++ s.settling.sent) := by
    simp only [SeqView.local, State.seqView, SeqView.mk.injEq]
    exact ⟨rfl, rfl, (List.append_nil _).symm, rfl, rfl, rfl, rfl⟩
  have hres : (s.settled n).pendingActions body = rest := hpend
  show EndsSeq _ ((s.settled n).resumeSeq body) _
  rw [hview, State.resumeSeq, hres]
  exact ih _ _ ⟨.ofStable (hin.later_ok _) hin.st hin.cmd hin.spells rfl n, h.answers, h.resets, rfl⟩ hres

/-- The actions left, by induction over them: each is a transaction answered later or at once, the oscillator wait, or a
register write. -/
theorem endsRest (i : Instr) (body : List Action) (answer : Nat → I2cAnswer) (rest : List Action) :
    EndsRest i body answer rest := by
  induction rest with
  | nil =>
    intro s past h _
    exact .ended rfl rfl _ rfl rfl rfl rfl rfl rfl
  | cons a rest ih =>
    intro s past h hp
    rw [State.runActions_cons]
    have ho := State.act_outcome a s.nextSeq
    generalize s.nextSeq.act a = f at ho
    have hgo : ∀ t, ActOutcome a s.nextSeq (.go t) → (∀ n, answer (t.txn.toNat + n) = t.env.answerAt n) →
        t.env.rstTicks = [] → t.rsp = none →
        EndsSeq past (t.runActions rest) (seqTimeline t.par answer rest (t.seqView past)) := by
      intro t ho ha hr hq
      obtain ⟨hready, hpend⟩ := h.ready.go hp ho
      exact ih t past ⟨hready, ha, hr, hq⟩ hpend
    cases ho with
    | awaits req hreq hl => exact h.endsSeq_awaits ih hp hreq hl
    | fails req hreq hl he =>
      rw [h.timeline_fails hreq hl he]
      exact .ended rfl (congrArg (fun x => some (responseWord .transportError x)) (transportError_info s.txn)) _ rfl
        ((List.append_assoc ..).trans (congrArg _ (s.sent_append req).symm)) rfl rfl rfl rfl
    | passes req hreq hl he =>
      rw [h.timeline_passes hreq hl he, ← h.seqView_answered (t := s.nextSeq.answeredAtOnce req) rfl rfl
        ((congrArg _ (s.sent_append req)).trans (List.append_assoc ..).symm) rfl rfl rfl rfl]
      exact hgo _ (.passes req hreq hl he) h.answers_next h.resets h.silent
    | waits ha =>
      subst ha
      exact h.endsSeq_waits ih hp
    | commits f p ha =>
      subst ha
      rw [seqTimeline_local rfl]
      exact hgo _ (.commits f p rfl) h.answers h.resets h.silent
    | marks ha =>
      subst ha
      rw [seqTimeline_local rfl]
      exact hgo _ (.marks rfl) h.answers h.resets h.silent

/-- An accepted command of units 2 and 3 with legal operands, with no reset to come. -/
theorem endsFrom_accepted {w : CmdWord} (hok : StateOk s) (ha : s.accepts w) (hd : decode w = .ok i)
    (hb : pwmBody s.par i = some body) (hk : illegalOperand s.par i = none) (hr : s.env.rstTicks = []) :
    EndsFrom [] [] s (seqTimeline s.par s.env.answerAt (commandSeq s.inited body)
      ⟨s.env.now + 1, 0, [], s.oldMode, s.inited, s.cfgFreq, s.cfgPrescale⟩) := by
  have hready := SeqReady.ofAccepted (hok.nextTick.latch ha.1 w) ha.1 hd hb hk
  have hs : step s = .next ((s.nextTick.latch w).startSeq.resumeSeq body) := by
    rw [stepRunsAcceptedCommand s w i ha hd, exec_of_pwmBody (s := s.nextTick.latch w) hb]
    exact execPwm_accepts ha.1 hk
  have hrest : (s.nextTick.latch w).startSeq.pendingActions body = commandSeq s.inited body := rfl
  rw [State.resumeSeq, hrest] at hs
  refine EndsFrom.before ?_ hs ?_
  · exact endsRest i body s.env.answerAt _ _ []
      ⟨hready, fun n => congrArg _ (Nat.zero_add n), hr, rfl⟩ hrest
  · exact (congrArg (·.env.now) (State.runActions_keepsFrame _ _).beside :)

end

/-- Settles O42: `endsFrom_accepted`, with the number of ticks read off the timeline. -/
theorem pwmRefinesPseudocode : Obligations.PwmRefinesPseudocode := by
  intro s w i body hok ha hd hb hk hr
  have hends := endsFrom_accepted hok ha hd hb hk hr
  unfold Env.answerAt at hends
  split
  · rename_i status info v heq
    rw [heq] at hends
    obtain ⟨n, t, hnow, hends⟩ := hends
    rw [show v.now - s.env.now = n by omega]
    exact ⟨t, hends⟩
  · rename_i v heq
    rw [heq] at hends
    obtain ⟨-, hrun⟩ := hends
    exact fun n hn => hrun n (by omega)

end Sys2Proof.Machine
end

section
/-! PROOFS. The prescale register is written right after a successful sleep write (42_pwm_driver R189): what is left of a
sequence writes it only behind a sleep write (`SleepFirst`), so do the requests of a tick (`SleepPreceded`), and between
two ticks the sleep write is the transaction that was waited for. -/

namespace Sys2Proof.Machine

open Sys2Proof.Config

/-! ## Telling requests apart -/

/-- The register a write goes to is the lowest byte of its payload (10_state R44). -/
theorem writeRequest_addr_inj {p q : BitVec 7} {r r' : Byte} {vs vs' : List Byte}
    (h : writeRequest p r vs = writeRequest q r' vs') : r = r' := by
  have hdata : packPayload (r :: vs) = packPayload (r' :: vs') := congrArg I2cRequest.data h
  apply BitVec.eq_of_getLsbD_eq
  intro i hi
  have hbit := congrArg (fun d : BitVec 40 => d.getLsbD i) hdata
  simpa [packPayload_getLsbD _ (show i < 40 by omega), Nat.div_eq_of_lt hi, Nat.mod_eq_of_lt hi] using hbit

/-- The sleep write has bit 4 set (42_pwm_driver R188). -/
theorem isSleepWrite_sleep (p : Params) (b : Byte) :
    IsSleepWrite p (writeRequest p.i2cAddr p.regMode [b ||| modeSleep]) :=
  ⟨_, rfl, by simp [modeSleep]⟩

/-- Of all actions only the prescale write issues one: a mode write goes to another register, a channel write has another
length, and a read is no write. -/
theorem Action.writesPrescale {a : Action} {p : Params} {b : Byte} {r : I2cRequest} (hr : a.request? p b = some r)
    (hp : IsPrescaleWrite p r) : ∃ q, a = .writePrescale q := by
  obtain ⟨v, rfl⟩ := hp
  have hmode (c : Byte) : writeRequest p.i2cAddr p.regMode [c] ≠ writeRequest p.i2cAddr p.regPrescale [v] := fun h =>
    (Params.regions_disjoint p).1 (writeRequest_addr_inj h)
  cases a <;> simp only [Action.request?, Option.some.injEq, reduceCtorEq] at hr
  case writePrescale q => exact ⟨q, rfl⟩
  case readMode => exact absurd (congrArg I2cRequest.rw hr) (by simp [readRequest, writeRequest])
  case writeChannel ch n f =>
    exact absurd (congrArg I2cRequest.len hr) (by simp [writeRequest, tickBytes])
  all_goals exact absurd hr (hmode _)

/-! ## Behind a sleep write -/

/-- The last of these requests of a tick is a sleep write; or there is none yet, and `first` holds of the tick. -/
def SleepLast (first : Prop) (p : Params) (reqs : List I2cRequest) : Prop :=
  (∃ pre q, reqs = pre ++ [q] ∧ IsSleepWrite p q) ∨ (reqs = [] ∧ first)

/-- Every prescale write among these requests of a tick is right behind a sleep write. -/
def SleepPreceded (first : Prop) (p : Params) (reqs : List I2cRequest) : Prop :=
  ∀ pre r post, reqs = pre ++ r :: post → IsPrescaleWrite p r → SleepLast first p pre

theorem SleepPreceded.nil (first : Prop) (p : Params) : SleepPreceded first p [] := by
  intro pre r post h
  simp at h

theorem SleepPreceded.concat {first : Prop} {p : Params} {reqs : List I2cRequest} {r : I2cRequest}
    (h : SleepPreceded first p reqs) (hr : IsPrescaleWrite p r → SleepLast first p reqs) :
    SleepPreceded first p (reqs ++ [r]) := by
  intro pre r' post heq hr'
  rcases List.eq_nil_or_concat post with rfl | ⟨post', x, rfl⟩
  · obtain ⟨rfl, hrr⟩ := List.append_inj' heq rfl
    cases hrr
    exact hr hr'
  · rw [List.concat_eq_append, ← List.cons_append, ← List.append_assoc] at heq
    exact h pre r' post' (List.append_inj' heq rfl).1 hr'

theorem SleepPreceded.mono {b c : Prop} {p : Params} {reqs : List I2cRequest} (h : SleepPreceded b p reqs)
    (hbc : b → c) : SleepPreceded c p reqs :=
  fun pre r post heq hr => (h pre r post heq hr).imp_right (And.imp_right hbc)

/-- The sequence writes the prescale register only right behind a sleep write; `behind` says whether its first action
is. -/
def SleepFirst (behind : Prop) : List Action → Prop
  | [] => True
  | a :: rest => ((∃ q, a = .writePrescale q) → behind) ∧ SleepFirst (a = .writeSleep) rest

theorem SleepFirst.mono {b c : Prop} {as : List Action} (h : SleepFirst b as) (hbc : b → c) : SleepFirst c as := by
  cases as with
  | nil => trivial
  | cons a rest => exact ⟨fun hq => hbc (h.1 hq), h.2⟩

/-- From any step of the sequence on. -/
theorem SleepFirst.drop {b : Prop} {as : List Action} (h : SleepFirst b as) (k : Nat) :
    SleepFirst (as[k]? = some .writeSleep) (as.drop (k + 1)) := by
  induction k generalizing b as with
  | zero =>
    cases as with
    | nil => trivial
    | cons a rest => exact h.2.mono (congrArg some)
  | succ k ih =>
    cases as with
    | nil => trivial
    | cons a rest => exact ih h.2

/-- Every body is such a sequence (42_pwm_driver R188). -/
theorem pwmBody_sleepFirst {p : Params} {i : Instr} {body : List Action} (h : pwmBody p i = some body) (b : Prop) :
    SleepFirst b body := by
  cases i <;> simp only [pwmBody, Option.some.injEq, reduceCtorEq] at h <;> subst h
  case init => trivial
  case setfreq f =>
    unfold setfreqBody
    split <;> simp [setFreqSeq, SleepFirst]
  case setduty ch n f => simp [setdutyBody, SleepFirst]
  case servo ch d => simp [servoBody, SleepFirst]
  case motor index v =>
    unfold motorBody
    dsimp only
    split <;> simp [SleepFirst]

theorem initializeSeq_sleepFirst {body : List Action} (h : ∀ b, SleepFirst b body) (b : Prop) :
    SleepFirst b (initializeSeq ++ body) := by
  simp [initializeSeq, setFreqSeq, SleepFirst, h]

/-! ## The requests of one tick -/

/-- One action adds its request behind those of the tick, and a sleep write that lets the sequence go on is the last. -/
theorem ActOutcome.sleepPreceded {first : Prop} {a : Action} {s : State} {f : Flow} (h : ActOutcome a s f)
    (hb : (∃ q, a = .writePrescale q) → SleepLast first s.par s.i2cReq) (hs : SleepPreceded first s.par s.i2cReq) :
    SleepPreceded first s.par f.state.i2cReq := by
  rcases h.requests with he | ⟨r, hr, he⟩
  · rwa [he]
  · rw [he]
    exact hs.concat fun hp => hb (Action.writesPrescale hr hp)

theorem ActOutcome.sleepLast {first : Prop} {s t : State} (h : ActOutcome .writeSleep s (.go t)) :
    SleepLast first s.par t.i2cReq := by
  cases h with
  | passes req hr =>
    cases hr
    exact .inl ⟨s.i2cReq, _, rfl, isSleepWrite_sleep s.par s.oldMode⟩
  | commits _ _ ha | marks ha => cases ha

theorem State.runActions_sleepPreceded {first : Prop} {p : Params} {as : List Action} {s : State}
    (ha : SleepFirst first as) (hp : s.par = p) (hs : s.i2cReq = []) :
    SleepPreceded first p (s.runActions as).i2cReq := by
  refine State.runActions_ind (R := fun t => SleepPreceded first p t.i2cReq) (Q := fun rest u => u.par = p ∧
    SleepFirst (SleepLast first p u.i2cReq) rest ∧ SleepPreceded first p u.i2cReq) ?_ ?_ ?_ as s
    ⟨hp, ha.mono fun hf => .inr ⟨hs, hf⟩, hs ▸ .nil first p⟩
  · rintro a rest u t ⟨rfl, ⟨hb, hrest⟩, hu⟩ ho
    refine ⟨ho.keepsFrame.par, hrest.mono ?_, ho.sleepPreceded hb hu⟩
    rintro rfl
    exact ho.sleepLast
  · rintro a rest u t ⟨rfl, ⟨hb, -⟩, hu⟩ ho
    exact ho.sleepPreceded hb hu
  · rintro u ⟨-, -, hu⟩
    exact hu

/-! ## One step -/

/-- The outstanding transaction is the sleep write of the command in CMD, answered without an error. -/
def State.SleepAnswered (s : State) : Prop :=
  s.phase = .i2cWait ∧ ∃ i body x, decode s.cmd = .ok i ∧ pwmBody s.par i = some body ∧
    s.lastAction body = some .writeSleep ∧ s.env.xfer = some x ∧ x.err = false

/-- What is left to do of a body, in a sequence whose SEQ has passed a step. -/
theorem State.pendingActions_sleepFirst {i : Instr} {body : List Action} {s : State} (hb : pwmBody s.par i = some body)
    (h1 : 1 ≤ s.seq.toNat) (hlen : s.seq.toNat ≤ (s.program body).length) :
    SleepFirst (s.lastAction body = some .writeSleep) (s.pendingActions body) := by
  have hbody := pwmBody_sleepFirst hb
  have hall : SleepFirst True (s.program body ++ if s.inited = true then [] else body) := by
    unfold State.program
    split
    · rw [List.append_nil]
      exact hbody _
    · exact initializeSeq_sleepFirst hbody _
  obtain ⟨k, hk⟩ : ∃ k, s.seq.toNat = k + 1 := ⟨s.seq.toNat - 1, by omega⟩
  have hdrop := hall.drop k
  rw [List.getElem?_append_left (by omega), List.drop_append_of_le_length (by omega)] at hdrop
  rwa [State.pendingActions_eq, State.lastAction, hk]

/-- The sequence a command starts with does not begin with a prescale write. -/
theorem commandSeq_sleepFirst {p : Params} {i : Instr} {body : List Action} (hb : pwmBody p i = some body)
    (inited : Bool) (b : Prop) : SleepFirst b (commandSeq inited body) := by
  unfold commandSeq
  split
  · exact pwmBody_sleepFirst hb b
  · exact initializeSeq_sleepFirst (pwmBody_sleepFirst hb) b

/-- A tick of a command of units 2 and 3: only its acceptance, an answer and the end of the oscillator delay let the
sequence go on, and of these only the answer to a sleep write stands before a prescale write. -/
theorem PwmTick.sleepPreceded {i : Instr} {body : List Action} {s t : State} (h : StateOk s)
    (hd : decode s.cmd = .ok i) (hb : pwmBody s.par i = some body) (hs : s.i2cReq = [])
    (ht : PwmTick (illegalOperand s.par i) body s t) : SleepPreceded s.SleepAnswered s.par t.i2cReq := by
  have resumed : s.st = .pwmSeq → SleepFirst (s.lastAction body = some .writeSleep) (s.pendingActions body) := by
    intro hst
    obtain ⟨hc, -, j, body', hd', hb', -, h1, -⟩ := h.pwm_busy hst hd hb
    exact State.pendingActions_sleepFirst hb h1 hc.bound
  have silent : SleepPreceded s.SleepAnswered s.par s.i2cReq := hs ▸ .nil _ _
  cases ht with
  | outOfRange | unanswered | counted | failed | waited => exact silent
  | accepted => exact State.runActions_sleepPreceded (commandSeq_sleepFirst hb s.inited _) rfl hs
  | answered x n hst hph hx _ _ he =>
    exact State.runActions_sleepPreceded ((resumed hst).mono fun hl => ⟨hph, i, body, x, hd, hb, hl, hx, he⟩) rfl hs
  | stable hst hph =>
    obtain ⟨-, -, j, body', hd', hb', -, -, -, -, hosc, -⟩ := h.pwm_busy hst hd hb
    obtain rfl : i = j := by simpa [hd] using hd'
    obtain rfl : body = body' := by simpa [hb] using hb'
    exact State.runActions_sleepPreceded ((resumed hst).mono fun hl => by simp [hosc hph] at hl) rfl hs

/-- A tick of the command in CMD, begun with a silent port. -/
theorem exec_sleepPreceded {i : Instr} {s t : State} (h : StateOk s) (hd : decode s.cmd = .ok i) (hs : s.i2cReq = [])
    (he : exec i s = .next t) : SleepPreceded s.SleepAnswered s.par t.i2cReq := by
  have silent : SleepPreceded s.SleepAnswered s.par s.i2cReq := hs ▸ .nil _ _
  rcases exec_cases he with ⟨L, f, -, hq⟩ | ⟨-, x, v, rfl⟩ | ⟨body, hb, hp⟩
  · rwa [hq.i2cReq]
  · exact silent
  · exact hp.sleepPreceded h hd hb hs

/-- Settles O58: only the command in CMD, in progress or just latched there, issues requests, and a command that is just
accepted has no outstanding transaction. -/
theorem prescaleWriteFollowsSleep : Obligations.PrescaleWriteFollowsSleep := by
  intro s t pre post r h hs
  suffices hall : SleepPreceded s.SleepAnswered s.par t.i2cReq from hall pre r post
  rcases step_cases hs with ⟨-, rfl⟩ | ⟨-, -, i, hd, he⟩ | ⟨-, -, -, rfl⟩ | ⟨w, i, ha, hd, he⟩ | ⟨w, e, -, -, rfl⟩
  · exact .nil _ _
  · exact exec_sleepPreceded (s := s.nextTick) h.nextTick hd rfl he
  · exact .nil _ _
  · have hlatched := exec_sleepPreceded (s := s.nextTick.latch w) (h.nextTick.latch ha.1 w) hd rfl he
    exact hlatched.mono fun ⟨hph, _⟩ => absurd ((h.idle_phase ha.1).symm.trans hph) (by simp)
  · exact .nil _ _

end Sys2Proof.Machine
end

section
/-! PROOFS. The commands of units 2 and 3 tick by tick (42_pwm_driver R180 to R194): a transaction answered at once in
one equation (`State.runActions_answered`), the acceptance of a command before and after the initialisation, the answers that
end a command, and the six transactions of the initialisation. -/

namespace Sys2Proof.Machine

open Sys2Proof.Config

/-! ## The acceptance tick -/

theorem Env.nextAnswer_cons {e : Env} {ans : I2cAnswer} {later : List I2cAnswer} (h : e.answers = ans :: later) :
    e.nextAnswer = ans := by
  rw [Env.nextAnswer, h]
  rfl

/-- A transaction that the script answers at once without an error, and what is left acts at this tick. -/
theorem State.runActions_answered {a : Action} {rest : List Action} {s : State} {req : I2cRequest} {ans : I2cAnswer}
    {later : List I2cAnswer} (hr : a.request? s.par s.oldMode = some req) (ha : s.env.answers = ans :: later)
    (hl : ans.latency = some 0) (he : ans.err = false) :
    s.runActions (a :: rest) = State.runActions rest { s with
      phase := .none
      seq := s.seq + 1
      txn := s.txn + 1
      i2cReq := s.i2cReq ++ [req]
      oldMode := if req.rw then ans.data else s.oldMode
      env := { s.env with answers := later, serial := s.env.serial + 1, xfer := none } } := by
  have hans := Env.nextAnswer_cons ha
  rw [State.runActions_now hr (by rw [hans, hl]) (by rw [hans, he])]
  have henv : s.env.countRequest = { s.env with answers := later, serial := s.env.serial + 1 } := by
    rw [Env.countRequest, ha]
    rfl
  rw [State.answeredAtOnce, show s.nextSeq.env = s.env from rfl, hans, henv]
  rfl

/-- With INITED = 1 a command's acceptance starts its body. -/
theorem exec_accepts_inited {i : Instr} {body : List Action} {s : State} (hst : s.st = .idle) (hi : s.inited = true)
    (hb : pwmBody s.par i = some body) (hk : illegalOperand s.par i = none) :
    exec i s = .next (s.startSeq.runActions body) := by
  rw [exec_of_pwmBody hb, execPwm_accepts hst hk, State.resumeSeq, State.pendingActions,
    show s.startSeq.inited = true from hi]
  rfl

/-- With INITED = 0 the initialisation comes first (42_pwm_driver R182). -/
theorem exec_accepts_uninited {i : Instr} {body : List Action} {s : State} (hst : s.st = .idle) (hi : s.inited = false)
    (hb : pwmBody s.par i = some body) (hk : illegalOperand s.par i = none) :
    exec i s = .next (s.startSeq.runActions (initializeSeq ++ body)) := by
  rw [exec_of_pwmBody hb, execPwm_accepts hst hk, State.resumeSeq, State.pendingActions,
    show s.startSeq.inited = false from hi]
  rfl

/-- Settles O32: nothing is left to do after EnsureInit. -/
theorem initIsIdempotent : Obligations.InitIsIdempotent := by
  intro s hst hi
  rw [exec_accepts_inited hst hi (show pwmBody s.par .init = some [] from rfl) rfl]
  show Host.Outcome.next ({ s with st := .idle, phase := .none, seq := 0, txn := 0, rsp := some 0 } : State) = _
  rw [← hst]

/-- Settles O33: five transactions answered at once, one after the other, and then the oscillator wait stops the
sequence. -/
theorem lazyInitialisationComesFirst : Obligations.LazyInitialisationComesFirst := by
  intro s i body a0 a1 a2 a3 a4 rest hst hi hb hk ha hall
  simp only [List.forall_mem_cons] at hall
  obtain ⟨⟨hl0, he0⟩, ⟨hl1, he1⟩, ⟨hl2, he2⟩, ⟨hl3, he3⟩, ⟨hl4, he4⟩, -⟩ := hall
  have hseq : initializeSeq ++ body = .writeModeReset :: .readMode :: .writeSleep :: .writePrescale 121 ::
    .restoreMode :: .oscWait :: ([.writeWake, .commitConfig 50 121, .markInited] ++ body) := rfl
  rw [exec_accepts_uninited hst hi hb hk, hseq]
  refine congrArg Host.Outcome.next ?_
  refine (State.runActions_answered (s := s.startSeq) rfl ha hl0 he0).trans ?_
  refine (State.runActions_answered rfl rfl hl1 he1).trans ?_
  refine (State.runActions_answered rfl rfl hl2 he2).trans ?_
  refine (State.runActions_answered rfl rfl hl3 he3).trans ?_
  refine (State.runActions_answered rfl rfl hl4 he4).trans ?_
  simp only [List.append_assoc]
  rfl

/-! ## The answer that ends a command -/

/-- In I2C_WAIT with an answer that comes without an error the sequence goes on (20_memory R64, R65). -/
theorem exec_answered {i : Instr} {body : List Action} {s : State} {x : Transfer} (hb : pwmBody s.par i = some body)
    (hst : s.st = .pwmSeq) (hph : s.phase = .i2cWait) (hx : s.env.xfer = some x) (hl : x.left = some 1)
    (he : x.err = false) : exec i s = .next (State.runActions (s.pendingActions body) (s.answered x)) := by
  rw [exec_of_pwmBody hb, execPwm_i2cWait hst hph, State.transferTick_answered hx hl le_rfl he]
  rfl

/-- A write's answer leaves OLDMODE alone. -/
theorem State.answered_write {s : State} {x : Transfer} (hr : x.read = false) :
    s.answered x = { s with phase := .none, env := { s.env with xfer := none } } := by
  rw [State.answered, hr]
  rfl

/-- Settles O34: behind the last transaction only the two register commits are left. -/
theorem initCompletes : Obligations.InitCompletes := by
  intro s x hst hph hi hseq hx hr hl he
  have hrest : s.pendingActions initBody = [.commitConfig 50 121, .markInited] := by
    rw [State.pendingActions, hi, hseq]
    rfl
  rw [exec_answered (body := initBody) rfl hst hph hx hl he, hrest, State.answered_write hr]
  rfl

/-- Settles O35: behind the final mode write only the register commit is left. -/
theorem setfreqCompletes : Obligations.SetfreqCompletes := by
  intro s x f p hst hph hi hseq hx hr hl he hp
  have hrest : s.pendingActions (setfreqBody f) = [.commitConfig f p] := by
    rw [State.pendingActions, hi, hseq, setfreqBody, hp]
    rfl
  rw [exec_answered (body := setfreqBody f) rfl hst hph hx hl he, hrest, State.answered_write hr,
    State.runActions_cons, State.nextSeq, hseq]
  rfl

/-- Settles O39: the answer ends the command, and the info word is TXN - 1 (30_encoding R102). -/
theorem transportErrorEndsCommand : Obligations.TransportErrorEndsCommand := by
  intro s i body x hb hst hph hx hl he ht
  have hinfo : (s.txn - 1).setWidth 32 = BitVec.ofNat 32 (s.txn.toNat - 1) := by
    rw [← BitVec.ofNat_toNat, BitVec.toNat_sub_of_le (by exact ht)]
    rfl
  rw [exec_of_pwmBody hb, execPwm_i2cWait hst hph, State.transferTick_fails hx hl le_rfl he, hinfo]
  rfl

/-! ## One channel write -/

/-- Five payload bytes, the first at the low end (10_state R44). -/
theorem packPayload_five (b0 b1 b2 b3 b4 : Byte) : packPayload [b0, b1, b2, b3, b4] = b4 ++ b3 ++ b2 ++ b1 ++ b0 := by
  apply BitVec.eq_of_getLsbD_eq
  intro i hi
  rw [packPayload_getLsbD _ hi]
  simp only [BitVec.getLsbD_append]
  repeat' split
  · rw [show i / 8 = 0 by omega, show i % 8 = i by omega]
    rfl
  · rw [show i / 8 = 1 by omega, show i % 8 = i - 8 by omega]
    rfl
  · rw [show i / 8 = 2 by omega, show i % 8 = i - 8 - 8 by omega]
    rfl
  · rw [show i / 8 = 3 by omega, show i % 8 = i - 8 - 8 - 8 by omega]
    rfl
  · rw [show i / 8 = 4 by omega, show i % 8 = i - 8 - 8 - 8 - 8 by omega]
    rfl

/-- The two bytes of a tick value (20_memory R63). -/
theorem tickLow_eq (v : Nat) : tickLow v = BitVec.ofNat 8 (v % 256) :=
  BitVec.eq_of_toNat_eq (by rw [tickLow_toNat, BitVec.toNat_ofNat, Nat.mod_mod])

theorem tickHigh_eq {v : Nat} (h : v ≤ 4095) : tickHigh v = BitVec.ofNat 8 (v / 256) :=
  BitVec.eq_of_toNat_eq (by rw [tickHigh_toNat h, BitVec.toNat_ofNat]; omega)

/-- The request of a channel write: the register, then ON low, ON high, OFF low, OFF high (30_encoding R105). -/
theorem writeRequest_channel (p : Params) (ch : Nat) {n f : Nat} (hn : n ≤ 4095) (hf : f ≤ 4095) :
    writeRequest p.i2cAddr (channelReg p ch) (tickBytes n f) =
      { rw := false, addr := p.i2cAddr, len := 5
        data := BitVec.ofNat 8 (f / 256) ++ BitVec.ofNat 8 (f % 256) ++ BitVec.ofNat 8 (n / 256) ++
          BitVec.ofNat 8 (n % 256) ++ BitVec.ofNat 8 (p.regChBase.toNat + 4 * ch) } := by
  rw [writeRequest, tickBytes, packPayload_five, tickLow_eq, tickLow_eq, tickHigh_eq hn, tickHigh_eq hf]
  rfl

/-- Settles O36: one action, whose request is `writeRequest_channel`. -/
theorem setdutyWritesOneChannel : Obligations.SetdutyWritesOneChannel := by
  intro s ch n f a rest hst hi hch hn hf ha hl he
  have hk : illegalOperand s.par (.setduty ch n f) = none := by
    simp [illegalOperand, setdutyIllegal, firstIllegal_eq_none, nChannels, tickMax, hn, hf, show ch < 16 by omega]
  rw [exec_accepts_inited (body := setdutyBody ch n f) hst hi rfl hk, setdutyBody,
    State.runActions_answered (s := s.startSeq) rfl ha hl he]
  show Host.Outcome.next ({ s with
    st := .idle, phase := .none, seq := 1, txn := 1
    i2cReq := s.i2cReq ++ [writeRequest s.par.i2cAddr (channelReg s.par ch) (tickBytes n f)]
    env := { s.env with answers := rest, serial := s.env.serial + 1, xfer := none }, rsp := some 0 } : State) = _
  rw [writeRequest_channel s.par ch hn hf, ← hst]

/-! ## The six transactions of an initialisation -/

/-- Settles O43: the timeline of the initialisation, one action after the other. -/
theorem initialisationTransactions : Obligations.InitialisationTransactions := by
  rintro p answer l ⟨now, txn, requests, oldMode, inited, cfgFreq, cfgPrescale⟩ rfl rfl h
  have hl (n : Nat) (hn : n < 6) := (h n hn).1
  have he (n : Nat) (hn : n < 6) := (h n hn).2
  unfold initializeSeq setFreqSeq
  refine (seqTimeline_passes rfl (hl 0 (by decide)) (he 0 (by decide))).trans ?_
  refine (seqTimeline_passes rfl (hl 1 (by decide)) (he 1 (by decide))).trans ?_
  refine (seqTimeline_passes rfl (hl 2 (by decide)) (he 2 (by decide))).trans ?_
  refine (seqTimeline_passes rfl (hl 3 (by decide)) (he 3 (by decide))).trans ?_
  refine (seqTimeline_passes rfl (hl 4 (by decide)) (he 4 (by decide))).trans ?_
  refine (seqTimeline_local rfl).trans ?_
  refine (seqTimeline_passes rfl (hl 5 (by decide)) (he 5 (by decide))).trans ?_
  refine (seqTimeline_local rfl).trans ?_
  refine (seqTimeline_local rfl).trans ?_
  rfl

end Sys2Proof.Machine
end

section
/-! PROOFS. What units 2 and 3 compute: the prescale calculator (42_pwm_driver R186, R187) and the channel addresses
(42_pwm_driver R198). -/

namespace Sys2Proof.Machine

open Sys2Proof.Config

/-! ## The prescale -/

/-- The frequencies with a prescale (42_pwm_driver R186): the quotient falls below 257 from 24 Hz on, and below 1 from
12208 Hz on. -/
theorem prescale?_isSome_iff (f : Nat) : (prescale? f).isSome = true ↔ 24 ≤ f ∧ f ≤ 12207 := by
  rw [prescale?_isSome]
  constructor
  · rintro ⟨h1, hq1, hq2⟩
    obtain ⟨hlo, hhi⟩ := prescaleQuotient_bounds h1
    have hlo' : 1 * (4096 * f) ≤ prescaleQuotient f * (4096 * f) := Nat.mul_le_mul_right _ hq1
    have hhi' : (prescaleQuotient f + 1) * (4096 * f) ≤ 257 * (4096 * f) := Nat.mul_le_mul_right _ (by omega)
    omega
  · rintro ⟨h24, h12207⟩
    obtain ⟨hlo, hhi⟩ := prescaleQuotient_bounds (f := f) (by omega)
    refine ⟨by omega, ?_, ?_⟩
    · by_contra hc
      rw [show prescaleQuotient f = 0 by omega] at hhi
      omega
    · by_contra hc
      have : 257 * (4096 * f) ≤ prescaleQuotient f * (4096 * f) := Nat.mul_le_mul_right _ (by omega)
      omega

/-- Settles O44: the rounded quotient is the nearest integer, and at a tie 4096, a divisor of both other terms, would
divide 50 000 000. -/
theorem prescaleIsNearestInteger : Obligations.PrescaleIsNearestInteger := by
  refine ⟨prescale?_isSome_iff, fun f p hp => ?_⟩
  obtain ⟨h1, hq, h255⟩ := prescale?_eq_some.1 hp
  obtain ⟨hlo, hhi⟩ := prescaleQuotient_bounds h1
  rw [hq, show (p + 1) * (4096 * f) = 4096 * ((p + 1) * f) by ring] at hlo
  rw [hq, show (p + 1 + 1) * (4096 * f) = 4096 * ((p + 1) * f) + 4096 * f by ring] at hhi
  refine ⟨h255, ?_⟩
  rw [show (4096 : Int) * f * (p + 1) = 4096 * ((p + 1) * f : Nat) by push_cast; ring]
  have htie : 2 * (4096 * ((p + 1) * f)) ≠ 50000000 + 4096 * f := by omega
  omega

/-- Settles O45: the calculator evaluated on each row of the table. -/
theorem prescaleTable : Obligations.PrescaleTable := by
  unfold Obligations.PrescaleTable
  decide

/-! ## Channel addresses -/

/-- The channel registers fit a byte address (20_memory R67). -/
theorem channelReg_toNat (p : Params) {ch : Nat} (h : ch ≤ 15) :
    (channelReg p ch).toNat = p.regChBase.toNat + 4 * ch := by
  have hbase := p.chBase_bound
  rw [channelReg, BitVec.toNat_ofNat]
  exact Nat.mod_eq_of_lt (by omega)

/-- A register outside the channel registers is none of a channel's four (20_memory R70). -/
theorem channelReg_add_ne {p : Params} {ch k : Nat} {r : Byte} (hch : ch ≤ 15) (hk : k ≤ 3)
    (hr : p.isChannelReg r = false) : (channelReg p ch).toNat + k ≠ r.toNat := by
  rw [channelReg_toNat p hch]
  intro heq
  simp only [RawParams.isChannelReg, decide_eq_false_iff_not] at hr
  omega

/-- Settles O50: the mode and the prescale register lie outside the channel registers in every legal choice of the
parameters. -/
theorem channelAddressesAreSafe : Obligations.ChannelAddressesAreSafe := by
  intro p ch k hch hk
  have hbase := p.chBase_bound
  obtain ⟨-, hmode, hprescale⟩ := p.regions_disjoint
  have haddr := channelReg_toNat p hch
  exact ⟨haddr, by omega, channelReg_add_ne hch hk hmode, channelReg_add_ne hch hk hprescale⟩

end Sys2Proof.Machine
end

section
/-! PROOFS. What SERVO and MOTOR compute and write (43_actuator_mapping): the pulse and the ticks of an angle, the channel
pair and the magnitude of a motor, and the channel writes that carry them. -/

namespace Sys2Proof.Machine

open Sys2Proof.Config

/-! ## The servo mapping -/

/-- The ticks of an angle on numbers (43_actuator_mapping R211, R212). -/
theorem servoTicks_eq (d : Nat) : servoTicks d = (10 * d + 600) * 4096 / 20000 := by
  rw [servoTicks, pulseMicros, servoUsPerDeg, servoUsMin, pwmSteps, servoPeriodUs, Nat.mul_comm d]

/-- Settles O46: the floor of a linear function of the angle, so its ends are its values at 0 and at 180 degrees. -/
theorem servoTicksInRange : Obligations.ServoTicksInRange := by
  intro d hd
  rw [servoTicks_eq]
  omega

/-- Settles O47: the mapping and the byte split evaluated on each row of the table. -/
theorem servoTable : Obligations.ServoTable := by
  unfold Obligations.ServoTable
  decide

/-! ## The motor mapping -/

/-- The most negative speed is clamped, whatever the scale. -/
theorem motorMagnitude_most_negative (p : Params) : motorMagnitude p (-32768) = 4095 := by
  have hscale := p.speedScale_pos
  rw [motorMagnitude_eq, if_neg]
  show ¬32768 * p.speedScale ≤ 4095
  omega

theorem motorMagnitude_zero (p : Params) : motorMagnitude p 0 = 0 := by
  simp [motorMagnitude]

/-- Settles O48: the bases of two legal motors are different even numbers, and `motorMagnitude_eq` is the clamp. -/
theorem motorPairsAreDisjoint : Obligations.MotorPairsAreDisjoint := by
  refine ⟨fun p i h1 _ => ⟨rfl, ?_⟩, fun p i j _ hi _ hj hne => ?_, fun p v => ?_, fun p => ?_⟩
  · exact Nat.le_of_lt_succ (motorBase_pair_lt h1)
  · unfold motorBase
    omega
  · rw [motorMagnitude_eq]
    exact ⟨fun h => if_pos h, fun h => if_neg (Nat.not_le.2 h)⟩
  · exact ⟨motorMagnitude_most_negative p, motorMagnitude_zero p⟩

/-- MOTOR's two writes: the driven channel, forward for speed 0 too, then the other one of the pair
(43_actuator_mapping R215, R218). -/
theorem motorBody_eq (p : Params) (index : Nat) (v : Int) :
    motorBody p index v =
      [.writeChannel (if 0 ≤ v then motorBase p index else motorBase p index + 1) 0 (motorMagnitude p v),
       .writeChannel (if 0 ≤ v then motorBase p index + 1 else motorBase p index) 0 0] := by
  unfold motorBody
  split <;> rfl

/-! ## The channel writes -/

/-- Two zero bytes below the others are a zero half word. -/
theorem append_zero_bytes (x : BitVec 16) : x ++ (0 : Byte) ++ (0 : Byte) = x ++ (0 : BitVec 16) := by
  rw [BitVec.append_assoc]
  rfl

/-- The request of a channel write with on tick 0 (43_actuator_mapping R210). -/
theorem writeRequest_channel_off (p : Params) (ch : Nat) {f : Nat} (hf : f ≤ 4095) :
    writeRequest p.i2cAddr (channelReg p ch) (tickBytes 0 f) =
      { rw := false, addr := p.i2cAddr, len := 5
        data := BitVec.ofNat 8 (f / 256) ++ BitVec.ofNat 8 (f % 256) ++ (0 : BitVec 16) ++
          BitVec.ofNat 8 (p.regChBase.toNat + 4 * ch) } := by
  rw [writeRequest_channel p ch (Nat.zero_le _) hf, ← append_zero_bytes]
  rfl

/-- SERVO is SETDUTY with on tick 0 and the ticks of its angle (43_actuator_mapping R210). -/
theorem exec_servo_eq_setduty {ch d : Nat} (hch : ch ≤ 15) (hd : d ≤ 180) (s : State) :
    exec (.servo ch d) s = exec (.setduty ch 0 (servoTicks d)) s := by
  have hservo : servoIllegal ch d = none := by
    simp [servoIllegal, firstIllegal_eq_none, nChannels, hd, show ch < 16 by omega]
  have hduty : setdutyIllegal ch 0 (servoTicks d) = none := by
    simp [setdutyIllegal, firstIllegal_eq_none, nChannels, servoTicks_le hd, show ch < 16 by omega]
  rw [exec_of_pwmBody (body := servoBody ch d) rfl,
    exec_of_pwmBody (body := setdutyBody ch 0 (servoTicks d)) rfl]
  show execPwm (servoIllegal ch d) _ s = execPwm (setdutyIllegal ch 0 (servoTicks d)) _ s
  rw [hservo, hduty]
  rfl

/-- Settles O37: SETDUTY's write, with on tick 0 and the ticks on numbers. -/
theorem servoWritesTruncatedTicks : Obligations.ServoWritesTruncatedTicks := by
  intro s ch deg a rest hst hi hch hdeg ha hl he
  have hticks : servoTicks deg ≤ 4095 := servoTicks_le hdeg
  rw [exec_servo_eq_setduty hch hdeg,
    setdutyWritesOneChannel s ch 0 (servoTicks deg) a rest hst hi hch (Nat.zero_le _) hticks ha hl he,
    ← writeRequest_channel s.par ch (Nat.zero_le _) hticks, writeRequest_channel_off s.par ch hticks, servoTicks_eq]

/-- Settles O38: two actions answered at once, whose requests are `writeRequest_channel_off`. -/
theorem motorDrivesThenZeroes : Obligations.MotorDrivesThenZeroes := by
  rintro s idx speed a b rest _ _ _ hst hi h1 hmax hans hla hea hlb heb rfl rfl rfl
  have hk : illegalOperand s.par (.motor idx speed) = none := by
    simp [illegalOperand, motorIllegal, firstIllegal_eq_none, h1, hmax]
  rw [exec_accepts_inited (body := motorBody s.par idx speed) hst hi rfl hk, motorBody_eq,
    State.runActions_answered (s := s.startSeq) rfl hans hla hea, State.runActions_answered rfl rfl hlb heb]
  show Host.Outcome.next ({ s with
    st := .idle, phase := .none, seq := 2, txn := 2
    i2cReq := s.i2cReq ++ [writeRequest s.par.i2cAddr (channelReg s.par _) (tickBytes 0 (motorMagnitude s.par speed))] ++
      [writeRequest s.par.i2cAddr (channelReg s.par _) (tickBytes 0 0)]
    env := { s.env with answers := rest, serial := s.env.serial + 2, xfer := none }, rsp := some 0 } : State) = _
  rw [writeRequest_channel_off s.par _ (motorMagnitude_le s.par speed), writeRequest_channel_off s.par _ (Nat.zero_le _),
    List.append_assoc, ← hst]
  rfl

end Sys2Proof.Machine
end

section
/-! PROOFS. The frames of the commands (44_command_classes R226): what no tick of QUERY changes, and what no tick of a
command of units 2 and 3 does. -/

namespace Sys2Proof.Machine

open Sys2Proof.Config

/-! ## QUERY -/

/-- The state with all that a tick of QUERY may write blanked: what is left is what it leaves alone. -/
def State.besideQuery (s : State) : State :=
  { s with
    st := .idle, phase := .none, bitIdx := 0, tmr := 0, frame := Vector.replicate 40 false, rb := ⟨0, 0, 0, 0, 0⟩
    hum := 0, temp := 0, valid := false, sdOe := [], sdPu := [], rsp := none }

section
variable {L f : Nat} {s t : State}

theorem QueryTick.beside (h : QueryTick L f s t) : t.besideQuery = s.besideQuery := by
  cases h <;> rfl

/-- QUERY drives, releases and pulls up its own line only (20_memory R72, 10_state R34). -/
theorem QueryTick.otherLines (h : QueryTick L f s t) {M : Nat} (hM : M ≠ L) :
    t.sdOeAt M = s.sdOeAt M ∧ t.sdPuAt M = s.sdPuAt M := by
  cases h with
  | accepted => exact ⟨(s.drive0_sdOeAt L M).trans (by simp [hM]), rfl⟩
  | released =>
    refine ⟨(s.release_sdOeAt L M).trans (by simp [hM]), ?_⟩
    have hpu : (s.enablePullup L).sdPuAt M = s.sdPuAt M := (s.enablePullup_sdPuAt L M).trans (by simp [hM])
    rw [← hpu, State.enablePullup, State.sdPuAt, State.sdPuAt]
    split <;> rfl
  | _ => exact ⟨rfl, rfl⟩

/-- The result bytes are written in the tick of the 40th sample, which ends the QUERY (40_sensor_query R139, R140). -/
theorem QueryTick.resultBytes (h : QueryTick L f s t) :
    t.rb = s.rb ∨ s.phase = .bitDelay ∧ 39 ≤ s.bitIdx.toNat ∧ t.st = .idle := by
  cases h with
  | read _ hph _ hb | mismatched _ hph _ hb =>
    rw [bitIdx_succ] at hb
    exact .inr ⟨hph, by omega, rfl⟩
  | _ => exact .inl rfl

/-- A sample writes its own bit of FRAME only (40_sensor_query R138). -/
theorem State.sampledFrame_getElem_ne (L : Nat) (s : State) {k : Fin 40} (hk : k.val ≠ s.bitIdx.toNat) :
    (s.sampledFrame L)[k] = s.frame[k] :=
  Vector.getElem_setIfInBounds_ne k.isLt hk.symm

theorem QueryTick.otherBits (h : QueryTick L f s t) {k : Fin 40} (hk : k.val ≠ s.bitIdx.toNat) :
    t.frame[k] = s.frame[k] := by
  cases h with
  | sampled | read | mismatched => exact s.sampledFrame_getElem_ne L hk
  | _ => rfl

end

/-- Settles O27: each clause from the cases of a tick of QUERY. -/
theorem queryFrame : Obligations.QueryFrame := by
  intro s t L f h
  have hq : QueryTick L f s t := execQuery_tick h
  have hb := hq.beside
  refine ⟨(congrArg State.seq hb :), (congrArg State.txn hb :), (congrArg State.cmd hb :), hq.inited,
    (congrArg State.cfgFreq hb :), (congrArg State.cfgPrescale hb :), (congrArg State.oldMode hb :), hq.i2cReq, hq.par,
    (congrArg State.env hb :), fun M hM => hq.otherLines hM, hq.resultBytes.resolve_left, fun hne => ?_,
    fun k hk => hq.otherBits hk⟩
  rcases hq.reading with ⟨hv, -, hr, -⟩ | ⟨hh, ht, -⟩
  · exact ⟨hv, hr⟩
  · exact absurd hne (by simp [hh, ht])

/-! ## The commands of units 2 and 3 -/

theorem State.runActions_addsRequests (as : List Action) (s : State) : s.i2cReq <+: (s.runActions as).i2cReq := by
  have added (a : Action) (u : State) (fl : Flow) (hu : s.i2cReq <+: u.i2cReq) (ho : ActOutcome a u.nextSeq fl) :
      s.i2cReq <+: fl.state.i2cReq := by
    rcases ho.requests with he | ⟨r, -, he⟩
    · rwa [he]
    · rw [he]
      exact hu.trans (List.prefix_append _ _)
  refine State.runActions_ind (Q := fun _ u => s.i2cReq <+: u.i2cReq) (R := fun t => s.i2cReq <+: t.i2cReq) ?_ ?_ ?_
    as s List.prefix_rfl
  · exact fun a _ u _ hu ho => added a u _ hu ho
  · exact fun a _ u _ hu ho => added a u _ hu ho
  · exact fun _ hu => hu

/-- A tick of a sequence only adds to the request port (10_state R44). -/
theorem PwmTick.addsRequests {illegal : Option Nat} {body : List Action} {s t : State} (h : PwmTick illegal body s t) :
    s.i2cReq <+: t.i2cReq := by
  cases h with
  | accepted => exact State.runActions_addsRequests _ s.startSeq
  | answered x => exact State.runActions_addsRequests _ (s.answered x)
  | stable => exact State.runActions_addsRequests _ { s with tmr := s.tmr + 1, phase := .none }
  | _ => exact List.prefix_rfl

/-- CFG_FREQ and CFG_PRESCALE, which are written together (10_state R32). -/
def State.config (s : State) : Half × Byte := (s.cfgFreq, s.cfgPrescale)

/-- None of the actions writes CFG_FREQ and CFG_PRESCALE. -/
def CommitsNothing (as : List Action) : Prop := ∀ f q, Action.commitConfig f q ∉ as

theorem ActOutcome.config {a : Action} {s : State} {fl : Flow} (h : ActOutcome a s fl)
    (ha : ∀ f q, a ≠ .commitConfig f q) : fl.state.config = s.config := by
  cases h with
  | commits f q he => exact absurd he (ha f q)
  | _ => rfl

theorem State.runActions_config {as : List Action} {s : State} (ha : CommitsNothing as) :
    (s.runActions as).config = s.config := by
  refine State.runActions_ind (Q := fun rest u => CommitsNothing rest ∧ u.config = s.config)
    (R := fun t => t.config = s.config) ?_ ?_ ?_ as s ⟨ha, rfl⟩
  · rintro a rest u t ⟨ha, hu⟩ ho
    exact ⟨fun f q hm => ha f q (.tail a hm), (ho.config fun f q he => ha f q (he ▸ .head rest)).trans hu⟩
  · rintro a rest u t ⟨ha, hu⟩ ho
    exact (ho.config fun f q he => ha f q (he ▸ .head rest)).trans hu
  · rintro u ⟨-, hu⟩
    exact hu

/-- An initialised block that goes on with such a body. -/
theorem State.resumeSeq_config {body : List Action} {s : State} (hi : s.inited = true) (hb : CommitsNothing body) :
    (s.resumeSeq body).config = s.config := by
  refine State.runActions_config fun f q hm => hb f q ?_
  rw [State.pendingActions, if_pos hi] at hm
  exact List.mem_of_mem_drop hm

theorem PwmTick.config {illegal : Option Nat} {body : List Action} {s t : State} (h : PwmTick illegal body s t)
    (hi : s.inited = true) (hb : CommitsNothing body) : t.config = s.config := by
  cases h with
  | accepted => exact State.resumeSeq_config (s := s.startSeq) hi hb
  | answered x => exact State.resumeSeq_config (s := s.answered x) hi hb
  | stable => exact State.resumeSeq_config (s := { s with tmr := s.tmr + 1, phase := .none }) hi hb
  | _ => rfl

/-- Of the bodies only SETFREQ's has a commit (42_pwm_driver R186, R188). -/
theorem pwmBody_commitsNothing {p : Params} {i : Instr} {body : List Action} (h : pwmBody p i = some body)
    (hi : i.mnemonic ≠ "SETFREQ") : CommitsNothing body := by
  intro f q
  cases i <;> simp only [pwmBody, Option.some.injEq, reduceCtorEq] at h <;> subst h
  case init => simp [initBody]
  case setfreq => exact absurd rfl hi
  case setduty => simp [setdutyBody]
  case servo => simp [servoBody]
  case motor => simp [motorBody_eq]

/-- Settles O41: what a sequence leaves alone (`SeqFrame`), and what it does to the request port and to the
configuration. -/
theorem pwmFrame : Obligations.PwmFrame := by
  intro s t i body hb h
  have hp : PwmTick (illegalOperand s.par i) body s t := execPwm_tick (exec_of_pwmBody hb ▸ h)
  obtain ⟨hf, hinited⟩ := hp.keepsFrame
  obtain ⟨sent, hsent⟩ := hp.addsRequests
  exact ⟨(congrArg State.bitIdx hf :), (congrArg State.cmd hf :), (congrArg State.frame hf :), (congrArg State.rb hf :),
    (congrArg State.hum hf :), (congrArg State.temp hf :), (congrArg State.valid hf :), (congrArg State.sdOe hf :),
    (congrArg State.sdPu hf :), (congrArg State.par hf :), (congrArg (·.env.now) hf :),
    (congrArg (·.env.offers) hf :), (congrArg (·.env.rstTicks) hf :), (congrArg (·.env.lines) hf :),
    ⟨sent, hsent.symm⟩, hinited, fun hi hm => Prod.mk.inj (hp.config hi (pwmBody_commitsNothing hb hm))⟩

end Sys2Proof.Machine
end

section
/-! PROOFS. Every QUERY ends (40_sensor_query R148, R149): a bound on the ticks a QUERY in progress still takes
(`State.ticksLeft`), which every tick of it lowers whatever the line does. -/

namespace Sys2Proof.Machine

open Sys2Proof.Config

/-! ## The ticks a QUERY still takes -/

/-- The most a wait takes that passes: its last look is EDGE_TIMEOUT - 1 ticks after its first (R133). -/
def lastLook (p : Params) : Nat := p.edgeTimeout - 1

/-- The most a bit slot takes: its two waits and its delay (R149). -/
def slotTicks (p : Params) : Nat := 2 * lastLook p + tBitDelay

/-- The most the slots after slot `i` take. -/
def ticksAfterSlot (p : Params) (i : Nat) : Nat := (39 - i) * slotTicks p

theorem ticksAfterSlot_of_lt (p : Params) {i : Nat} (hi : i < 39) :
    ticksAfterSlot p i = slotTicks p + ticksAfterSlot p (i + 1) := by
  rw [ticksAfterSlot, show 39 - i = 39 - (i + 1) + 1 by omega, Nat.succ_mul, Nat.add_comm]
  rfl

/-- The most ticks that a QUERY takes from here on: what is left of the delay or of the wait it is in, and all of those
after it. A wait that times out does so one tick after its last look (R133), within the bit delay that would follow. -/
def State.ticksLeft (s : State) : Nat :=
  match s.phase with
  | .reqLow => tReqLow - s.tmr.toNat + (tReqWait + 2 * lastLook s.par + slotTicks s.par + ticksAfterSlot s.par 0)
  | .reqWait => tReqWait - s.tmr.toNat + (2 * lastLook s.par + slotTicks s.par + ticksAfterSlot s.par 0)
  | .ackWaitLow => lastLook s.par - s.tmr.toNat + (lastLook s.par + slotTicks s.par + ticksAfterSlot s.par 0)
  | .ackWaitHigh => lastLook s.par - s.tmr.toNat + (slotTicks s.par + ticksAfterSlot s.par 0)
  | .bitWaitFall => lastLook s.par - s.tmr.toNat + (lastLook s.par + tBitDelay + ticksAfterSlot s.par s.bitIdx.toNat)
  | .bitWaitRise => lastLook s.par - s.tmr.toNat + (tBitDelay + ticksAfterSlot s.par s.bitIdx.toNat)
  | .bitDelay => tBitDelay - s.tmr.toNat + ticksAfterSlot s.par s.bitIdx.toNat
  | _ => 0

section
variable {L f : Nat} {s t : State}

/-- In its delays the timer of a QUERY is short of their length (10_state R24). -/
theorem State.InDelay.timer {n : Nat} (h : s.InDelay n) (hok : StateOk s) : s.tmr.toNat < n := by
  have hc := hok.control
  unfold ControlOk at hc
  rcases h with ⟨hst, hph, rfl⟩ | ⟨hst, hph, rfl⟩ | ⟨hst, hph, rfl⟩ <;> rw [hst, hph] at hc
  · exact hc.2
  · exact hc.2
  · exact hc.2.1

/-- The timer of a QUERY in progress does not wrap. -/
theorem StateOk.query_timer (h : StateOk s) (hst : s.st ≠ .idle) (hd : decode s.cmd = .ok (.query L f)) :
    (s.tmr + 1).toNat = s.tmr.toNat + 1 := by
  refine State.countTick_toNat ?_
  have hlimit := s.par.edgeTimeout_bounds.2
  rcases h.busy_cases hst with
    ⟨-, -, ⟨-, -, ht⟩ | ⟨-, -, ht⟩ | ⟨-, -, ht, -⟩ | ⟨-, ht, -⟩⟩ | ⟨-, ⟨i, body, hi, hb, -⟩, -⟩
  · rw [tReqLow] at ht
    omega
  · rw [tReqWait] at ht
    omega
  · rw [tBitDelay] at ht
    omega
  · omega
  · obtain rfl : Instr.query L f = i := by simpa [hd] using hi
    cases hb

/-- In every wait a bit delay is still to come. -/
theorem State.ticksLeft_pos {w : Bool × Nat} (hw : s.wait? = some w) : 0 < s.ticksLeft := by
  rcases State.wait?_phase hw with ⟨-, hph | hph⟩ | ⟨-, hph | hph⟩ <;>
    simp only [State.ticksLeft, hph, slotTicks, tBitDelay] <;> omega

/-- A tick of a delay or of a wait that goes on lowers the bound by one. -/
theorem State.ticksLeft_counted (hn : (s.tmr + 1).toNat = s.tmr.toNat + 1)
    (hin : (s.st = .requestSent ∧ s.phase = .reqLow ∧ (s.tmr + 1).toNat < tReqLow) ∨
      (s.st = .requestSent ∧ s.phase = .reqWait ∧ (s.tmr + 1).toNat < tReqWait) ∨
      (s.st = .bitSampling ∧ s.phase = .bitDelay ∧ (s.tmr + 1).toNat < tBitDelay) ∨
      (∃ v site, s.wait? = some (v, site) ∧ s.sample L ≠ v ∧ (s.tmr + 1).toNat < s.par.edgeTimeout)) :
    ({ s with tmr := s.tmr + 1 } : State).ticksLeft < s.ticksLeft := by
  rcases hin with ⟨-, hph, ht⟩ | ⟨-, hph, ht⟩ | ⟨-, hph, ht⟩ | ⟨v, site, hw, -, ht⟩
  case inr.inr.inr =>
    rcases State.wait?_phase hw with ⟨-, hph | hph⟩ | ⟨-, hph | hph⟩ <;>
      simp only [State.ticksLeft, hph, lastLook] <;> omega
  all_goals
    simp only [State.ticksLeft, hph]
    omega

/-- Every tick of a QUERY in progress lowers the bound. -/
theorem QueryTick.ticksLeft_lt (h : QueryTick L f s t) (hok : StateOk s) (hd : decode s.cmd = .ok (.query L f))
    (hst : s.st ≠ .idle) : t.ticksLeft < s.ticksLeft := by
  have hn := hok.query_timer hst hd
  cases h with
  | outOfRange _ hi | accepted hi => exact absurd hi hst
  | counted _ hin => exact State.ticksLeft_counted hn hin
  | timedOut v site hw => exact State.ticksLeft_pos hw
  | released hst hph =>
    have ht : s.tmr.toNat < tReqLow := State.InDelay.timer (.inl ⟨hst, hph, rfl⟩) hok
    simp only [State.ticksLeft, hph]
    omega
  | firstLooked hst hph =>
    have ht : s.tmr.toNat < tReqWait := State.InDelay.timer (.inr (.inl ⟨hst, hph, rfl⟩)) hok
    cases hs : s.sample L <;> simp only [State.ticksLeft, hph, reduceCtorEq, if_true, if_false] <;> omega
  | ackStarted _ hph _ ht | ackEnded _ hph _ ht | fell _ hph _ ht | rose _ hph _ ht =>
    simp only [State.ticksLeft, hph, slotTicks, lastLook, BitVec.ofNat_eq_ofNat, BitVec.toNat_ofNat, Nat.zero_mod]
    omega
  | sampled hst hph _ hb =>
    have ht : s.tmr.toNat < tBitDelay := State.InDelay.timer (.inr (.inr ⟨hst, hph, rfl⟩)) hok
    have hi : s.bitIdx.toNat < 40 := hok.bitIdx_lt hst
    rw [bitIdx_succ] at hb
    have hnext : (s.bitIdx + 1).toNat = s.bitIdx.toNat + 1 := by rw [bitIdx_succ]; omega
    have hslots := ticksAfterSlot_of_lt s.par (i := s.bitIdx.toNat) (by omega)
    cases hs : s.sample L <;>
      simp only [State.ticksLeft, hph, hnext, hslots, slotTicks, reduceCtorEq, if_true, if_false] <;> omega
  | read hst hph | mismatched hst hph =>
    have ht : s.tmr.toNat < tBitDelay := State.InDelay.timer (.inr (.inr ⟨hst, hph, rfl⟩)) hok
    simp only [State.ticksLeft, hph]
    omega

/-- A tick of a QUERY in progress: none of it stops, and the next state is again one of the QUERY, or its end. -/
theorem StateOk.query_tick (hok : StateOk s) (hd : decode s.cmd = .ok (.query L f)) (hst : s.st ≠ .idle) :
    ∃ t, exec (.query L f) s.nextTick = .next t ∧ t.ticksLeft < s.ticksLeft ∧ StateOk t ∧
      t.env = s.nextTick.env ∧ t.cmd = s.cmd ∧ (t.st = .idle → t.rspValid = true) := by
  obtain ⟨t, he⟩ := hok.nextTick.exec_continues hst hd
  have hq : QueryTick L f s.nextTick t := execQuery_tick he
  exact ⟨t, he, hq.ticksLeft_lt hok.nextTick hd hst, exec_keepsOk hok.nextTick hd he, (congrArg State.env hq.beside :),
    (congrArg State.cmd hq.beside :), (exec_response he rfl).2⟩

/-- With no reset in the meantime, a QUERY in progress ends before the bound is used up. -/
theorem StateOk.query_ends {k : Nat} (hok : StateOk s) (hd : decode s.cmd = .ok (.query L f)) (hst : s.st ≠ .idle)
    (hk : s.ticksLeft ≤ k) (hr : s.noResetFor k) :
    ∃ n t, n ≤ k ∧ stepN n s = .next t ∧ t.st = .idle ∧ t.rspValid = true := by
  induction k generalizing s with
  | zero =>
    obtain ⟨u, -, hlt, -⟩ := hok.query_tick hd hst
    omega
  | succ k ih =>
    obtain ⟨u, he, hlt, hok', henv, hcmd, hend⟩ := hok.query_tick hd hst
    have hs : step s = .next u := (stepContinuesCommandInProgress s _ hst hr.next hd).trans he
    by_cases hu : u.st = .idle
    · exact ⟨1, u, by omega, stepN_succ hs, hu, hend hu⟩
    · obtain ⟨n, t, hn, hrun, ht⟩ := ih hok' (hcmd ▸ hd) hu (by omega)
        (hr.later (m := 1) (congrArg Env.rstTicks henv :) (congrArg Env.now henv :) (by omega))
      exact ⟨n + 1, t, by omega, (stepN_succ hs).trans hrun, ht⟩

/-- The acceptance of a QUERY with an operand outside its legal set ends it (60_exceptions R238). -/
theorem exec_query_refused {k : Nat} (hst : s.st = .idle) (hk : queryIllegal s.par L f = some k) :
    exec (.query L f) s = .next (s.clearValid.raiseRange k) := by
  rw [exec_query_idle hst, State.acceptQuery]
  simp only [State.clearValid_par, hk]

/-- The bound on a QUERY just accepted (R149). -/
theorem State.pulsing_ticksLeft (L : Nat) (w : CmdWord) (s : State) (n : Nat) :
    ((s.pulsing L w).atTick n 0).ticksLeft = 19140 + 82 * (s.par.edgeTimeout - 1) := by
  show 18000 - 0 + (20 + 2 * lastLook s.par + slotTicks s.par + 39 * slotTicks s.par) = _
  simp only [slotTicks, lastLook, tBitDelay]
  omega

end

/-- Settles O30: refused operands are answered in the acceptance tick, and from the acceptance of legal ones on every
tick lowers `State.ticksLeft`. -/
theorem queryAlwaysEnds : Obligations.QueryAlwaysEnds := by
  intro s w L f hok ha hd hr
  obtain ⟨hst, -⟩ := id ha
  obtain ⟨u, hs⟩ := stepNeverStops s hok
  cases hk : queryIllegal s.par L f with
  | some k =>
    have hends : step s = .next ((s.nextTick.latch w).clearValid.raiseRange k) :=
      (stepRunsAcceptedCommand s w _ ha hd).trans (exec_query_refused (s := s.nextTick.latch w) hst hk)
    exact ⟨0, _, Nat.zero_le _, stepN_succ hends, rfl, rfl⟩
  | none =>
    obtain ⟨haccept, -⟩ := QuietRun.accept hok ha hd hk
    obtain rfl : u = (s.pulsing L w).atTick (s.env.now + 1) 0 := by simpa [stepN, hs] using haccept
    obtain ⟨n, t, hn, hrun, ht⟩ := (stepKeepsInvariant _ _ hok hs).query_ends hd (fun h => St.noConfusion h)
      (State.pulsing_ticksLeft L w s _).le (hr.later (m := 1) rfl rfl (by omega))
    exact ⟨n, t, hn, (stepN_succ hs).trans hrun, ht⟩

end Sys2Proof.Machine
end

section
/-! PROOFS. How commands fail (60_exceptions): the legal operand sets, the refusal of an operand outside its set, the
words that spell no command, and the statuses each command ends with. -/

namespace Sys2Proof.Machine

open Sys2Proof.Config

/-! ## The legal operand sets (R233) -/

section
variable {a b c : Bool} {P Q R : Prop} [Decidable P] [Decidable Q] [Decidable R]
variable (ha : a = false ↔ P) (hb : b = false ↔ Q) (hc : c = false ↔ R)
include ha

/-- An operand is the first illegal one, or the check goes on behind it. -/
theorem firstIllegal_cons_of_iff (l : List Bool) :
    firstIllegal (a :: l) = if P then some 0 else (firstIllegal l).map (· + 1) := by
  simp only [firstIllegal_cons, ← ha]
  cases a <;> rfl

theorem firstIllegal_one : firstIllegal [a] = if P then some 0 else none :=
  firstIllegal_cons_of_iff ha []

include hb

theorem firstIllegal_two : firstIllegal [a, b] = if P then some 0 else if Q then some 1 else none := by
  rw [firstIllegal_cons_of_iff ha, firstIllegal_one hb, apply_ite (Option.map _)]
  rfl

include hc

theorem firstIllegal_three :
    firstIllegal [a, b, c] = if P then some 0 else if Q then some 1 else if R then some 2 else none := by
  rw [firstIllegal_cons_of_iff ha, firstIllegal_two hb hc, apply_ite (Option.map _), apply_ite (Option.map _)]
  rfl

end

theorem decide_lt_false {m n : Nat} : decide (m < n) = false ↔ n ≤ m := decide_eq_false_iff_not.trans not_lt

theorem decide_le_false {m n : Nat} : decide (m ≤ n) = false ↔ n < m := decide_eq_false_iff_not.trans not_le

/-- Settles O11: the first operand that fails its condition decides (R238), and SETFREQ's condition is 24..12207. -/
theorem legalOperandSets : Obligations.LegalOperandSets := by
  intro p
  refine ⟨fun l f => ?query, fun r => ?rdreg, rfl, fun f => ?setfreq, fun c n f => ?setduty, fun c d => ?servo,
    fun i v => ?motor⟩
  case query => exact firstIllegal_two decide_lt_false decide_le_false
  case rdreg => exact firstIllegal_one decide_le_false
  case setfreq =>
    refine firstIllegal_one ?_
    rw [← Bool.not_eq_true, prescale?_isSome_iff]
    omega
  case setduty => exact firstIllegal_three decide_lt_false decide_le_false decide_le_false
  case servo => exact firstIllegal_two decide_lt_false decide_le_false
  case motor =>
    refine firstIllegal_one ?_
    rw [decide_eq_false_iff_not]
    omega

/-! ## Commands and words that are refused -/

/-- Settles O7: a word that selects no row does not decode, and in IDLE its answer changes nothing else. -/
theorem illegalWordChangesNothing : Obligations.IllegalWordChangesNothing := by
  intro s w hph ha hsel
  have hagree := decoderAgreesWithMaskTable w
  rw [step_accept ha]
  cases hd : decode w with
  | ok i => simp [hsel, hd] at hagree
  | error e =>
    obtain ⟨hst, -⟩ := ha
    exact congrArg Host.Outcome.next (State.endCommand_of_idle (s := s.nextTick.takeOffer) hst hph _ _)

/-- An operand outside its legal set ends a command of units 2 and 3 at its acceptance (42_pwm_driver R180). -/
theorem exec_pwm_refused {i : Instr} {body : List Action} {s : State} {k : Nat} (hb : pwmBody s.par i = some body)
    (hst : s.st = .idle) (hk : illegalOperand s.par i = some k) : exec i s = .next (s.raiseRange k) := by
  rw [exec_of_pwmBody hb, hk, execPwm, hst]
  rfl

/-- The mnemonic tells QUERY from the commands of units 2 and 3. -/
theorem pwmBody_not_query {p : Params} {i : Instr} {body : List Action} (h : pwmBody p i = some body) :
    i.mnemonic ≠ "QUERY" := by
  cases i with
  | query | rdreg => cases h
  | _ => simp [Instr.mnemonic]

/-- In IDLE a RangeError changes nothing but the response (60_exceptions R240). -/
theorem State.raiseRange_of_idle {s : State} (hst : s.st = .idle) (hph : s.phase = .none) (k : Nat) :
    s.raiseRange k = { s with rsp := some (responseWord .rangeError (BitVec.ofNat 32 k)) } :=
  State.endCommand_of_idle hst hph _ _

/-- Settles O12: each unit raises RangeError at acceptance, QUERY behind its clearing of VALID, and in IDLE a raise
changes the response alone. -/
theorem rangeErrorHasNoOtherEffect : Obligations.RangeErrorHasNoOtherEffect := by
  intro i s k hst hph hk
  rcases unit_cases i s.par with ⟨L, f, rfl⟩ | ⟨r, rfl⟩ | ⟨body, hb⟩
  · rw [exec_query_refused hst hk, State.raiseRange_of_idle (s := s.clearValid) hst hph]
    rfl
  · obtain ⟨-, hrdreg, -⟩ := legalOperandSets s.par
    rw [hrdreg] at hk
    split_ifs at hk with h7
    cases hk
    exact exec_rdreg_of_none hst hph (s.readReg_of_seven_lt h7)
  · rw [exec_pwm_refused hb hst hk, State.raiseRange_of_idle hst hph, if_neg (pwmBody_not_query hb)]
    rfl

/-! ## The statuses of R234 -/

/-- In some state a tick of the command answers with this status. -/
def CanEndWith (i : Instr) (st : Status) : Prop :=
  ∃ (s t : State) (info : Word32), s.rsp = none ∧ exec i s = .next t ∧ t.rsp = some (responseWord st info)

theorem canEndWith_rangeError {p : Params} {i : Instr} {k : Nat} (h : illegalOperand p i = some k) :
    CanEndWith i .rangeError :=
  ⟨{ State.reset with par := p }, _, BitVec.ofNat 32 k, rfl, rangeErrorHasNoOtherEffect i _ k rfl rfl h, rfl⟩

/-- Every command with operands has some outside their legal sets. -/
theorem exists_illegalOperand (p : Params) {i : Instr} (h : mayEndWith i .rangeError = true) :
    ∃ j k, j.mnemonic = i.mnemonic ∧ illegalOperand p j = some k := by
  obtain ⟨hquery, hrdreg, -, hsetfreq, hsetduty, hservo, hmotor⟩ := legalOperandSets p
  cases i with
  | query => exact ⟨.query p.nLines 0, 0, rfl, by simp [hquery]⟩
  | rdreg => exact ⟨.rdreg 8, 0, rfl, by simp [hrdreg]⟩
  | init => cases h
  | setfreq => exact ⟨.setfreq 0, 0, rfl, by simp [hsetfreq]⟩
  | setduty => exact ⟨.setduty 16 0 0, 0, rfl, by simp [hsetduty]⟩
  | servo => exact ⟨.servo 16 0, 0, rfl, by simp [hservo]⟩
  | motor => exact ⟨.motor 0 0, 0, rfl, by simp [hmotor]⟩

/-- A QUERY one tick before its first wait fails. -/
def State.lastAckLook : State :=
  { State.reset with st := .awaitAck, phase := .ackWaitLow, tmr := BitVec.ofNat 32 (State.reset.par.edgeTimeout - 1) }

theorem query_canEndWith_timeout (L f : Nat) : CanEndWith (.query L f) .timeout := by
  obtain ⟨h1, h32⟩ := State.reset.par.edgeTimeout_bounds
  have ht : State.lastAckLook.tmr.toNat + 1 = State.lastAckLook.par.edgeTimeout := by
    show (State.reset.par.edgeTimeout - 1) % 2 ^ 32 + 1 = State.reset.par.edgeTimeout
    rw [Nat.mod_eq_of_lt (by omega)]
    omega
  exact ⟨_, _, 0, rfl, waitExpiresWithTimeout State.lastAckLook L f 0 false rfl ht, rfl⟩

/-- A QUERY of line `L` one tick before its 40th sample, which will read `level`; every bit before it was 0. -/
def State.lastBit (L : Nat) (level : Bool) : State :=
  { State.reset with
    st := .bitSampling, phase := .bitDelay, tmr := 27, bitIdx := 39
    env := { Env.empty with lines := [⟨L, 0, some level⟩] } }

theorem State.lastBit_sample (L : Nat) (level : Bool) : (State.lastBit L level).sample L = level := by
  simp [State.sample, State.lastBit, State.sdOeAt, State.reset, Env.level, Env.scriptedLevel, Env.empty]

/-- With a 0 as the last bit all five bytes are 0, and so is their sum. -/
theorem query_canEndWith_ok (L f : Nat) : CanEndWith (.query L f) .ok := by
  have hr : (⟨0, 0, 0, 0, 0⟩ : ResultBytes) =
      assembleFrame ((State.lastBit L false).frame.setIfInBounds 39 ((State.lastBit L false).sample L)) := by
    rw [State.lastBit_sample]
    show _ = assembleFrame ((Vector.replicate 40 false).setIfInBounds 39 false)
    decide
  exact ⟨_, _, 0, rfl, queryCompletesWithReading _ L f _ rfl rfl rfl rfl hr rfl, rfl⟩

/-- With a 1 as the last bit the received sum is 1 and the computed one 0. -/
theorem query_canEndWith_checksumMismatch (L f : Nat) : CanEndWith (.query L f) .checksumMismatch := by
  have hr : (⟨0, 0, 0, 0, 1⟩ : ResultBytes) =
      assembleFrame ((State.lastBit L true).frame.setIfInBounds 39 ((State.lastBit L true).sample L)) := by
    rw [State.lastBit_sample]
    show _ = assembleFrame ((Vector.replicate 40 false).setIfInBounds 39 true)
    decide
  exact ⟨_, _, _, rfl, queryRejectsBadChecksum _ L f _ rfl rfl rfl rfl hr (by decide), rfl⟩

theorem rdreg_canEndWith_ok : CanEndWith (.rdreg 0) .ok :=
  ⟨State.reset, _, State.reset.statusReg, rfl, exec_rdreg_of_some rfl rfl rfl, rfl⟩

/-- A command of units 2 and 3 on an initialised block, one tick before its first transaction is answered, SEQ at
`seq`. -/
def State.lastAnswer (seq : Nat) (err : Bool) : State :=
  { State.reset with
    st := .pwmSeq, phase := .i2cWait, inited := true, seq := BitVec.ofNat 4 seq, txn := 1
    env := { Env.empty with xfer := some ⟨false, some 1, err, 0⟩ } }

theorem pwm_canEndWith_transportError {i : Instr} {body : List Action} (hb : pwmBody State.reset.par i = some body) :
    CanEndWith i .transportError :=
  ⟨State.lastAnswer 1 true, _, _, rfl, transportErrorEndsCommand _ i body _ hb rfl rfl rfl rfl rfl le_rfl, rfl⟩

/-- With SEQ at the end of the body the answer ends the command with OK. -/
theorem pwm_canEndWith_ok {i : Instr} {body : List Action} (hb : pwmBody State.reset.par i = some body) :
    CanEndWith i .ok := by
  obtain ⟨hlen, -⟩ := pwmBody_facts hb
  have hrest : (State.lastAnswer body.length false).pendingActions body = [] := by
    show body.drop (body.length % 2 ^ 4) = []
    rw [Nat.mod_eq_of_lt (by omega), List.drop_length]
  have he := exec_answered (s := State.lastAnswer body.length false) hb rfl rfl rfl rfl rfl
  rw [hrest] at he
  exact ⟨_, _, 0, rfl, he, rfl⟩

/-- Every status the table allows for a command does occur, column by column; for RangeError and for RDREG's OK the
operands are chosen anew. -/
theorem exists_canEndWith {i : Instr} {st : Status} (h : mayEndWith i st = true) :
    ∃ j, j.mnemonic = i.mnemonic ∧ CanEndWith j st := by
  cases st with
  | ok =>
    rcases unit_cases i State.reset.par with ⟨L, f, rfl⟩ | ⟨r, rfl⟩ | ⟨body, hb⟩
    · exact ⟨_, rfl, query_canEndWith_ok L f⟩
    · exact ⟨.rdreg 0, rfl, rdreg_canEndWith_ok⟩
    · exact ⟨i, rfl, pwm_canEndWith_ok hb⟩
  | timeout =>
    cases i with
    | query L f => exact ⟨_, rfl, query_canEndWith_timeout L f⟩
    | _ => cases h
  | checksumMismatch =>
    cases i with
    | query L f => exact ⟨_, rfl, query_canEndWith_checksumMismatch L f⟩
    | _ => cases h
  | transportError =>
    rcases unit_cases i State.reset.par with ⟨L, f, rfl⟩ | ⟨r, rfl⟩ | ⟨body, hb⟩
    · cases h
    · cases h
    · exact ⟨i, rfl, pwm_canEndWith_transportError hb⟩
  | rangeError =>
    obtain ⟨j, k, hm, hk⟩ := exists_illegalOperand State.reset.par h
    exact ⟨j, hm, canEndWith_rangeError hk⟩
  | illegalCommand => cases i <;> cases h

/-- Settles O13: `exec_sendsOnly` is the table read from left to right, `exists_canEndWith` from right to left. -/
theorem endingStatuses : Obligations.EndingStatuses := by
  refine ⟨fun i s t w h hr hw => exec_sendsOnly h hr w hw, ?_⟩
  rintro m st ⟨i, rfl, h⟩
  obtain ⟨j, hm, s, t, info, hj⟩ := exists_canEndWith h
  exact ⟨j, s, t, info, hm, hj⟩

end Sys2Proof.Machine
end

section
/-! PROOFS. Reset and the idle block (70_reset_and_hazards R260, R263, R264): a tick at which nothing is accepted, and a
tick with `rst = 1` with the idle tick after it. -/

namespace Sys2Proof.Machine

/-- Only an offer whose tick has come is accepted (10_state R42, log 8). -/
theorem State.not_accepts_of_late {s : State} (h : ∀ o ∈ s.env.offers.head?, s.env.now + 1 < o.tick) (w : CmdWord) :
    ¬s.accepts w := by
  rintro ⟨-, -, k, rest, ho, hk⟩
  have hlate : s.env.now + 1 < k := h ⟨k, w⟩ (by rw [ho]; rfl)
  exact absurd hk hlate.not_ge

/-- Settles O8: a tick in IDLE accepts a word or does nothing, and a late offer is not accepted. -/
theorem idleTickChangesNothing : Obligations.IdleTickChangesNothing := by
  intro s hst hr hlate
  exact (step_idle_cases hst hr).resolve_left fun ⟨w, ha⟩ => State.not_accepts_of_late hlate w ha

/-- FRAME is all 0 after a tick with `rst = 1`. -/
theorem State.takeReset_frame (s : State) (k : Fin 40) : s.takeReset.frame[k] = false :=
  Vector.getElem_replicate k.isLt

/-- Settles O9: the tick is `step_reset`, whose state `State.takeReset` has every register of `State.reset`; that state
is in IDLE, so the tick after is `step_idle`. -/
theorem resetTickResetsEverything : Obligations.ResetTickResetsEverything := by
  intro s hr
  refine ⟨s.nextTick.takeReset, step_reset hr, rfl, rfl, rfl, rfl, rfl, rfl, rfl, s.nextTick.takeReset_frame, rfl, rfl,
    rfl, rfl, rfl, rfl, rfl, rfl, rfl, fun L => ⟨rfl, rfl⟩, rfl, rfl, rfl, rfl, rfl, rfl, fun hr' => ?_⟩
  exact step_idle (s := s.nextTick.takeReset) rfl hr'

end Sys2Proof.Machine
end
